-- ==== Sys2Proof/Word.lean ====
section
/-! DEFINITION. The two word types of the machine: bytes and 16-bit words (00_scope.md R5). -/

namespace Sys2Proof

/-- An 8-bit value: a general register, a timer, a byte of memory. All values are unsigned (R5). -/
abbrev Byte := BitVec 8

/-- A 16-bit value: PC, I, a return address, an instruction word, the key snapshot. -/
abbrev Word := BitVec 16

end Sys2Proof
end

