-- ==== Sys2Proof/WellFormed.lean ====
section
/-! DEFINITION. Well-formedness. An instruction's operands are exactly as wide as their fields (R81), so every term of `Instr`
is well formed by its type; what can be ill formed is an instruction WORD, and it is exactly when no row of the opcode map
of 30_encoding.md R85 matches it (R84, R86). -/

namespace Sys2Proof

/-- One row of the opcode map: a word `w` is the instruction iff (w AND mask) = pattern (R85; the spec's `match`). -/
structure OpcodeRow where
  mnemonic : String
  mask     : Word
  pattern  : Word
  deriving DecidableEq, Repr

/-- The word belongs to the row. -/
def OpcodeRow.covers (r : OpcodeRow) (w : Word) : Bool := w &&& r.mask == r.pattern

/-- Rows 00E0 to 7XNN of R85. -/
def opcodeMapLow : List OpcodeRow :=
  [⟨"00E0", 0xFFFF, 0x00E0⟩, ⟨"00EE", 0xFFFF, 0x00EE⟩, ⟨"1NNN", 0xF000, 0x1000⟩, ⟨"2NNN", 0xF000, 0x2000⟩,
   ⟨"3XNN", 0xF000, 0x3000⟩, ⟨"4XNN", 0xF000, 0x4000⟩, ⟨"5XY0", 0xF00F, 0x5000⟩, ⟨"6XNN", 0xF000, 0x6000⟩,
   ⟨"7XNN", 0xF000, 0x7000⟩]

/-- Rows of family 8 of R85. -/
def opcodeMapAlu : List OpcodeRow :=
  [⟨"8XY0", 0xF00F, 0x8000⟩, ⟨"8XY1", 0xF00F, 0x8001⟩, ⟨"8XY2", 0xF00F, 0x8002⟩, ⟨"8XY3", 0xF00F, 0x8003⟩,
   ⟨"8XY4", 0xF00F, 0x8004⟩, ⟨"8XY5", 0xF00F, 0x8005⟩, ⟨"8XY6", 0xF00F, 0x8006⟩, ⟨"8XY7", 0xF00F, 0x8007⟩,
   ⟨"8XYE", 0xF00F, 0x800E⟩]

/-- Rows 9XY0 to EXA1 of R85. -/
def opcodeMapHigh : List OpcodeRow :=
  [⟨"9XY0", 0xF00F, 0x9000⟩, ⟨"ANNN", 0xF000, 0xA000⟩, ⟨"BNNN", 0xF000, 0xB000⟩, ⟨"CXNN", 0xF000, 0xC000⟩,
   ⟨"DXYN", 0xF000, 0xD000⟩, ⟨"EX9E", 0xF0FF, 0xE09E⟩, ⟨"EXA1", 0xF0FF, 0xE0A1⟩]

/-- Rows of family F of R85. -/
def opcodeMapF : List OpcodeRow :=
  [⟨"FX07", 0xF0FF, 0xF007⟩, ⟨"FX0A", 0xF0FF, 0xF00A⟩, ⟨"FX15", 0xF0FF, 0xF015⟩, ⟨"FX18", 0xF0FF, 0xF018⟩,
   ⟨"FX1E", 0xF0FF, 0xF01E⟩, ⟨"FX29", 0xF0FF, 0xF029⟩, ⟨"FX33", 0xF0FF, 0xF033⟩, ⟨"FX55", 0xF0FF, 0xF055⟩,
   ⟨"FX65", 0xF0FF, 0xF065⟩]

/-- The opcode map of R85, in the source's table order. -/
def opcodeMap : List OpcodeRow := opcodeMapLow ++ opcodeMapAlu ++ opcodeMapHigh ++ opcodeMapF

/-- The word is an instruction of the table: it matches a row with every literal nibble equal (R84, R85). -/
def wellFormedWord (w : Word) : Bool := opcodeMap.any (·.covers w)

end Sys2Proof
end

