-- ==== Sys2Proof/Decode.lean ====
section
/-! DEFINITION. The decoder (30_encoding.md R80 to R89) and the encoder. Decoding dispatches on the nibble n0 and, for families
0, 5, 8, 9, E and F, on n or nn (R84); a word of no row is rejected under the name of its family (R86). -/

namespace Sys2Proof

/-- Nibble n0 = instr[15:12], the primary opcode (R80). -/
def nibble0 (w : Word) : BitVec 4 := w.extractLsb' 12 4

/-- Nibble n1 = instr[11:8] (R80). -/
def nibble1 (w : Word) : BitVec 4 := w.extractLsb' 8 4

/-- Nibble n2 = instr[7:4] (R80). -/
def nibble2 (w : Word) : BitVec 4 := w.extractLsb' 4 4

/-- Nibble n3 = instr[3:0] (R80). -/
def nibble3 (w : Word) : BitVec 4 := w.extractLsb' 0 4

/-- Field x = n1, a register index (R81). -/
def fieldX (w : Word) : Reg := (nibble1 w).toFin

/-- Field y = n2, a register index (R81). -/
def fieldY (w : Word) : Reg := (nibble2 w).toFin

/-- Field nn = the low byte (R81). -/
def fieldNN (w : Word) : Byte := w.extractLsb' 0 8

/-- Field nnn = the low 12 bits (R81). -/
def fieldNNN (w : Word) : BitVec 12 := w.extractLsb' 0 12

/-- Why a word or a byte sequence is not an instruction: the six illegal families of R86, or fewer than two bytes. -/
inductive Reject where
  /-- 0x0000 to 0x0FFF except 0x00E0 and 0x00EE -/
  | illegal0
  /-- 0x5XYn with n ≠ 0 -/
  | illegal5
  /-- 0x8XYn with n in 8 to D or F -/
  | illegal8
  /-- 0x9XYn with n ≠ 0 -/
  | illegal9
  /-- 0xEXnn with nn not 0x9E or 0xA1 -/
  | illegalE
  /-- 0xFXnn with nn none of the nine of R85 -/
  | illegalF
  /-- fewer than the two bytes of an instruction (R80) -/
  | truncated
  deriving DecidableEq, Repr

/-- Family 0, on the whole word (R84). -/
def decode0 (w : Word) : Except Reject Instr :=
  match w.toNat with
  | 0x00E0 => .ok .cls
  | 0x00EE => .ok .ret
  | _ => .error .illegal0

/-- Family 5, on n (R84). -/
def decode5 (w : Word) : Except Reject Instr :=
  match (nibble3 w).toNat with
  | 0 => .ok (.seReg (fieldX w) (fieldY w))
  | _ => .error .illegal5

/-- Family 8, on n (R84). -/
def decode8 (w : Word) : Except Reject Instr :=
  match (nibble3 w).toNat with
  | 0x0 => .ok (.ldReg (fieldX w) (fieldY w))
  | 0x1 => .ok (.orReg (fieldX w) (fieldY w))
  | 0x2 => .ok (.andReg (fieldX w) (fieldY w))
  | 0x3 => .ok (.xorReg (fieldX w) (fieldY w))
  | 0x4 => .ok (.addReg (fieldX w) (fieldY w))
  | 0x5 => .ok (.subReg (fieldX w) (fieldY w))
  | 0x6 => .ok (.shr (fieldX w) (fieldY w))
  | 0x7 => .ok (.subn (fieldX w) (fieldY w))
  | 0xE => .ok (.shl (fieldX w) (fieldY w))
  | _ => .error .illegal8

/-- Family 9, on n (R84). -/
def decode9 (w : Word) : Except Reject Instr :=
  match (nibble3 w).toNat with
  | 0 => .ok (.sneReg (fieldX w) (fieldY w))
  | _ => .error .illegal9

/-- Family E, on nn (R84). -/
def decodeE (w : Word) : Except Reject Instr :=
  match (fieldNN w).toNat with
  | 0x9E => .ok (.skp (fieldX w))
  | 0xA1 => .ok (.sknp (fieldX w))
  | _ => .error .illegalE

/-- Family F, on nn (R84). -/
def decodeF (w : Word) : Except Reject Instr :=
  match (fieldNN w).toNat with
  | 0x07 => .ok (.ldVxDt (fieldX w))
  | 0x0A => .ok (.ldVxK (fieldX w))
  | 0x15 => .ok (.ldDtVx (fieldX w))
  | 0x18 => .ok (.ldStVx (fieldX w))
  | 0x1E => .ok (.addI (fieldX w))
  | 0x29 => .ok (.ldF (fieldX w))
  | 0x33 => .ok (.ldB (fieldX w))
  | 0x55 => .ok (.spill (fieldX w))
  | 0x65 => .ok (.fill (fieldX w))
  | _ => .error .illegalF

/-- The decoder: a total function from words to one of the 34 instructions or a named rejection (R89). -/
def decode (w : Word) : Except Reject Instr :=
  match (nibble0 w).toNat with
  | 0x0 => decode0 w
  | 0x1 => .ok (.jp (fieldNNN w))
  | 0x2 => .ok (.call (fieldNNN w))
  | 0x3 => .ok (.seImm (fieldX w) (fieldNN w))
  | 0x4 => .ok (.sneImm (fieldX w) (fieldNN w))
  | 0x5 => decode5 w
  | 0x6 => .ok (.ldImm (fieldX w) (fieldNN w))
  | 0x7 => .ok (.addImm (fieldX w) (fieldNN w))
  | 0x8 => decode8 w
  | 0x9 => decode9 w
  | 0xA => .ok (.ldI (fieldNNN w))
  | 0xB => .ok (.jpV0 (fieldNNN w))
  | 0xC => .ok (.rnd (fieldX w) (fieldNN w))
  | 0xD => .ok (.drw (fieldX w) (fieldY w) (nibble3 w))
  | 0xE => decodeE w
  | _ => decodeF w

/-- The instruction word held by two bytes in memory order: big-endian (R56, R57). -/
def wordOfBytes (hi lo : Byte) : Word := hi ++ lo

/-- The high byte of a word, the one at the lower address (R57). -/
def highByte (w : Word) : Byte := w.extractLsb' 8 8

/-- The low byte of a word. -/
def lowByte (w : Word) : Byte := w.extractLsb' 0 8

/-- Decode the first instruction of a byte sequence and give the bytes left: every instruction is two bytes (R80). -/
def decodeBytes : List Byte → Except Reject (Instr × List Byte)
  | hi :: lo :: rest =>
    match decode (wordOfBytes hi lo) with
    | .ok i => .ok (i, rest)
    | .error r => .error r
  | _ => .error .truncated

/-- The instruction in a word numbered as spec/opcode_table.json numbers it: bit 15 down to bit 0 of the one 16-bit word,
laid out high byte first as the hardware stores it. -/
def decodeTableWord (_nbits w : Nat) : Option Instr :=
  match decodeBytes [highByte (BitVec.ofNat 16 w), lowByte (BitVec.ofNat 16 w)] with
  | .ok (i, _) => some i
  | .error _ => none

/-- Format A, oNNN (R82). -/
def formatA (op : BitVec 4) (nnn : BitVec 12) : Word := op ++ nnn

/-- Format I, oXNN (R82). -/
def formatI (op : BitVec 4) (x : Reg) (nn : Byte) : Word := op ++ (BitVec.ofFin x : BitVec 4) ++ nn

/-- Formats R and D, oXYf and oXYN (R82). -/
def formatR (op : BitVec 4) (x y : Reg) (f : BitVec 4) : Word :=
  op ++ (BitVec.ofFin x : BitVec 4) ++ (BitVec.ofFin y : BitVec 4) ++ f

/-- Format F, oXff (R82). -/
def formatF (op : BitVec 4) (x : Reg) (ff : Byte) : Word := op ++ (BitVec.ofFin x : BitVec 4) ++ ff

/-- The encoder: the match value of R85 with the fields at the positions of R81 (R90). -/
def encode : Instr → Word
  | .cls => 0x00E0
  | .ret => 0x00EE
  | .jp nnn => formatA 0x1 nnn
  | .call nnn => formatA 0x2 nnn
  | .seImm x nn => formatI 0x3 x nn
  | .sneImm x nn => formatI 0x4 x nn
  | .seReg x y => formatR 0x5 x y 0x0
  | .ldImm x nn => formatI 0x6 x nn
  | .addImm x nn => formatI 0x7 x nn
  | .ldReg x y => formatR 0x8 x y 0x0
  | .orReg x y => formatR 0x8 x y 0x1
  | .andReg x y => formatR 0x8 x y 0x2
  | .xorReg x y => formatR 0x8 x y 0x3
  | .addReg x y => formatR 0x8 x y 0x4
  | .subReg x y => formatR 0x8 x y 0x5
  | .shr x y => formatR 0x8 x y 0x6
  | .subn x y => formatR 0x8 x y 0x7
  | .shl x y => formatR 0x8 x y 0xE
  | .sneReg x y => formatR 0x9 x y 0x0
  | .ldI nnn => formatA 0xA nnn
  | .jpV0 nnn => formatA 0xB nnn
  | .rnd x nn => formatI 0xC x nn
  | .drw x y n => formatR 0xD x y n
  | .skp x => formatF 0xE x 0x9E
  | .sknp x => formatF 0xE x 0xA1
  | .ldVxDt x => formatF 0xF x 0x07
  | .ldVxK x => formatF 0xF x 0x0A
  | .ldDtVx x => formatF 0xF x 0x15
  | .ldStVx x => formatF 0xF x 0x18
  | .addI x => formatF 0xF x 0x1E
  | .ldF x => formatF 0xF x 0x29
  | .ldB x => formatF 0xF x 0x33
  | .spill x => formatF 0xF x 0x55
  | .fill x => formatF 0xF x 0x65

/-- The two bytes of an instruction in memory order (R57). -/
def encodeBytes (i : Instr) : List Byte := [highByte (encode i), lowByte (encode i)]

end Sys2Proof
end

