-- ==== Sys2Proof/Config.lean ====
section
/-! DEFINITION. The implementation parameters of 00_scope.md R4 and the one free value, the random byte of 10_state.md R30.
The values this hardware takes for the configurable parameters stand in Machine/Parameters.lean. -/

namespace Sys2Proof
namespace Config

/-- MEM_SIZE, fixed: addresses 0x000 to 0xFFF (R50). -/
abbrev memSize : Nat := 4096

/-- FONT_BASE, fixed (R51). -/
abbrev fontBase : Nat := 0x050

/-- GLYPH_HEIGHT, fixed: 5 bytes per glyph (R52). -/
abbrev glyphHeight : Nat := 5

/-- PROGRAM_BASE, fixed: load address and reset PC (R23, R172). -/
abbrev programBase : Nat := 0x200

/-- FB_COLS, fixed (R27). -/
abbrev fbCols : Nat := 64

/-- FB_ROWS, fixed (R27). -/
abbrev fbRows : Nat := 32

/-- SHIFT_QUIRK: `modern` shifts Vx in place, `legacy` shifts Vy into Vx (R133). -/
inductive ShiftQuirk where
  | modern
  | legacy
  deriving DecidableEq, Repr

/-- DRAW_EDGE: whether a sprite crossing an edge wraps or is clipped (R152). -/
inductive DrawEdge where
  | wrap
  | clip
  deriving DecidableEq, Repr

/-- I_WRAP_BITS: the number of bits FX1E keeps of its sum (R141). -/
inductive IndexWrap where
  | bits12
  | bits16
  deriving DecidableEq, Repr

/-- The configurable parameters of R4, fixed for a run (R34 a). -/
structure Params where
  font       : Vector Byte 80
  indexWrap  : IndexWrap
  stackDepth : Nat
  shiftQuirk : ShiftQuirk
  drawEdge   : DrawEdge
  deriving DecidableEq, Repr

/-- FREE VALUE (log entry 1): the byte that the `k`-th CXNN since the model began draws. R30: "a draw under no law", so it has
no body and nothing can be proved of its value. -/
opaque randomByte : Nat → Byte

end Config
end Sys2Proof
end

