-- ==== Sys2Proof/Machine/Parameters.lean ====
section
/-! DEFINITION. The values this hardware takes for the configurable parameters: the defaults of 00_scope.md R4. -/

namespace Sys2Proof
namespace Machine

/-- FONT, the default table of R52: 16 glyphs of 5 bytes, digits 0 to F (PRESUMED by the spec, log entry 5). -/
def fontTable : Vector Byte 80 := #v[
  0xF0, 0x90, 0x90, 0x90, 0xF0,  0x20, 0x60, 0x20, 0x20, 0x70,
  0xF0, 0x10, 0xF0, 0x80, 0xF0,  0xF0, 0x10, 0xF0, 0x10, 0xF0,
  0x90, 0x90, 0xF0, 0x10, 0x10,  0xF0, 0x80, 0xF0, 0x10, 0xF0,
  0xF0, 0x80, 0xF0, 0x90, 0xF0,  0xF0, 0x10, 0x20, 0x40, 0x40,
  0xF0, 0x90, 0xF0, 0x90, 0xF0,  0xF0, 0x90, 0xF0, 0x10, 0xF0,
  0xF0, 0x90, 0xF0, 0x90, 0x90,  0xE0, 0x90, 0xE0, 0x90, 0xE0,
  0xF0, 0x80, 0x80, 0x80, 0xF0,  0xE0, 0x90, 0x90, 0x90, 0xE0,
  0xF0, 0x80, 0xF0, 0x80, 0xF0,  0xF0, 0x80, 0xF0, 0x80, 0x80]

/-- The parameters of this hardware (R4). -/
def hardware : Config.Params where
  font := fontTable
  indexWrap := .bits12
  stackDepth := 16
  shiftQuirk := .modern
  drawEdge := .wrap

/-- I_WRAP_BITS as a number (R141). -/
def wrapBits : Config.IndexWrap → Nat
  | .bits12 => 12
  | .bits16 => 16

end Machine
end Sys2Proof
end

