-- ==== Sys2Proof/Machine/State.lean ====
section
/-! DEFINITION. The state of the machine (10_state.md R20 to R36), its reset value (R35), and the reasons a step can stop. -/

namespace Sys2Proof
namespace Machine

/-- Memory: the bytes that differ from the reset contents, as address and byte, addresses strictly rising (R33, R50). What an
unlisted address reads as is `Memory.background` in Machine/Ops.lean; the canonical form is `Memory.wf` there. -/
abbrev Memory := List Host.Cell

/-- MODE (R31). -/
inductive Mode where
  | running
  | halted
  deriving DecidableEq, Repr

/-- FAULT.cause (R194). -/
inductive Cause where
  | none
  | bounds
  | decode
  | stack
  deriving DecidableEq, Repr

/-- FAULT, the record of the fatal condition that halted the machine (R32). -/
structure FaultRecord where
  cause   : Cause
  faultPc : Word
  info    : Word
  deriving DecidableEq, Repr

/-- FAULT = (0, 0, 0): no fault recorded (R35). -/
def FaultRecord.empty : FaultRecord := ⟨.none, 0, 0⟩

/-- The whole state: the tuple of 10_state.md, and `draws`. -/
structure State where
  /-- V0 to VF; V[15] is the flag VF (R20, R21). -/
  v      : Vector Byte 16
  /-- I, the index register (R22). -/
  i      : Word
  /-- PC, the address of the next instruction to fetch (R23). -/
  pc     : Word
  /-- STACK, the return addresses, the most recently pushed first; its length is the depth (R25). -/
  stack  : List Word
  /-- DT, the delay timer (R26). -/
  dt     : Byte
  /-- ST, the sound timer (R26). -/
  st     : Byte
  /-- FB: row `r` as a 64-bit word whose bit `63 - c` is the pixel FB[r][c] (R27, packing of R179). -/
  fb     : Vector (BitVec 64) 32
  /-- DIRTY (R28). -/
  dirty  : Bool
  /-- K, the key snapshot: bit `k` is key `k` (R29). -/
  keys   : BitVec 16
  /-- MODE (R31). -/
  mode   : Mode
  /-- FAULT (R32). -/
  fault  : FaultRecord
  /-- Mem (R33). -/
  mem    : Memory
  /-- The model's own field (log entry 1): how many random bytes have been drawn; it selects the next free value. -/
  draws  : Nat
  deriving DecidableEq, Repr

/-- A step stops with no fault: every fatal condition the spec names (R190) is TAKEN, as a next state in MODE = Halted (R196),
so this type has no constructor and nobody raises one. That is safe: nothing the spec describes is left out by it. -/
inductive Fault where
  deriving DecidableEq, Repr

/-- The refusals, by name. -/
inductive Refusal where
  /-- Raised only by an arm of `exec` whose instruction has no meaning yet; no arm raises it now. Safe. -/
  | notModelled (mnemonic : String)
  /-- Raised only by `session`, for a Load issued to a running machine that has taken a Step since the last Reset: no rule
  gives it a result (R65, R172, 93_implementation_defined.md U14). No instruction raises it. Safe. -/
  | loadAfterStep
  deriving DecidableEq, Repr

/-- The state after Reset (R35, R210). -/
def State.reset : State where
  v := Vector.replicate 16 0
  i := 0
  pc := 0x200
  stack := []
  dt := 0
  st := 0
  fb := Vector.replicate 32 0
  dirty := false
  keys := 0
  mode := .running
  fault := .empty
  mem := []
  draws := 0

end Machine
end Sys2Proof
end

