-- ==== Sys2Proof/Machine/Ops.lean ====
section
/-! DEFINITION. The named operations over memory, the call stack, PC and the registers, and raising a fatal condition. -/

namespace Sys2Proof
namespace Machine

/-! ### Memory (20_memory.md) -/

/-- What an unlisted address reads as: the reset contents, FONT in 0x050 to 0x09F and 0x00 elsewhere (R33, R51, R52). -/
def Memory.background (a : Nat) : Byte :=
  if a < Config.fontBase then 0 else hardware.font.toList.getD (a - Config.fontBase) 0

/-- The byte at an address (R53). The bounds are checked by the range accesses and by the fetch. -/
def Memory.readByte : Memory → Nat → Byte
  | [], a => background a
  | c :: rest, a => if c.1 = a then c.2 else readByte rest a

/-- Put a cell before the first one of a larger address. -/
def Memory.insertCell : Memory → Nat → Byte → Memory
  | [], a, b => [(a, b)]
  | c :: rest, a, b => if a < c.1 then (a, b) :: c :: rest else c :: insertCell rest a b

/-- Take an address off the list, so that it reads as the background. -/
def Memory.eraseCell (m : Memory) (a : Nat) : Memory := m.filter (fun c => c.1 != a)

/-- Write a byte, keeping the canonical form (R54). -/
def Memory.writeByte (m : Memory) (a : Nat) (b : Byte) : Memory :=
  if b = background a then eraseCell m a else insertCell (eraseCell m a) a b

/-- Addresses strictly rising, from `lo` up. -/
def Memory.risingFrom : Nat → Memory → Bool
  | _, [] => true
  | lo, c :: rest => decide (lo ≤ c.1) && risingFrom (c.1 + 1) rest

/-- A cell inside the address space that differs from what its address reads as when unlisted. -/
def Memory.cellOk (c : Host.Cell) : Bool := decide (c.1 < Config.memSize) && c.2 != background c.1

/-- The canonical form: equal memories are equal lists. -/
def Memory.wf (m : Memory) : Bool := risingFrom 0 m && m.all cellOk

/-- `len` bytes from `a` up, unchecked. -/
def Memory.readBytes (m : Memory) (a len : Nat) : List Byte := (List.range len).map (fun k => m.readByte (a + k))

/-- Bytes written in order from `a` up, unchecked. -/
def Memory.writeBytes : Memory → Nat → List Byte → Memory
  | m, _, [] => m
  | m, a, b :: bs => writeBytes (m.writeByte a b) (a + 1) bs

/-- MemReadRange (R55): none is the BoundsError, which the caller raises. `MemRead(a, 1)` of R53 is the range of length 1. -/
def Memory.readRange (m : Memory) (a len : Nat) : Option (List Byte) :=
  if a + len ≤ Config.memSize then some (m.readBytes a len) else none

/-- MemWriteRange (R55): the whole range is checked before any byte moves; none is the BoundsError, which the caller raises.
`MemWrite(a, 1, v)` of R54 is the range of length 1. -/
def Memory.writeRange (m : Memory) (a : Nat) (bytes : List Byte) : Option Memory :=
  if a + bytes.length ≤ Config.memSize then some (m.writeBytes a bytes) else none

/-! ### Fatal conditions (60_exceptions.md) -/

/-- The cause codes of R194. -/
def Cause.code : Cause → BitVec 2
  | .none => 0
  | .bounds => 1
  | .decode => 2
  | .stack => 3

/-- The MODE code of R36. -/
def Mode.code : Mode → BitVec 1
  | .running => 0
  | .halted => 1

/-- The post-state of a raise: the pre-state with exactly MODE and FAULT changed (R196, R197). -/
def State.halt (s : State) (cause : Cause) (faultPc info : Word) : State :=
  { s with mode := .halted, fault := ⟨cause, faultPc, info⟩ }

/-- A Step raises a fatal condition: fault_pc is the address of the instruction (R191 to R193). The operation is called on the
pre-state, in which PC still is that address, so the faulting step is void (R105, R197). There is no return from it (R198):
only Reset leaves Halted (Machine/HostOps.lean). -/
def raise (cause : Cause) (info : Word) (s : State) : Host.Outcome State Fault Refusal :=
  .next (s.halt cause s.pc info)

/-! ### PC (40_step.md R102, 41_control_flow.md R118) -/

/-- The unconditional advance after the fetch: PC becomes p + 2 (R102). -/
def State.advance (s : State) : State := { s with pc := s.pc + 2 }

/-- Overwrite PC (R102 e). -/
def State.setPc (s : State) (target : Word) : State := { s with pc := target }

/-- A skip adds 2 to the already advanced PC when its condition holds, and does nothing else (R118). -/
def State.skipIf (s : State) (cond : Bool) : State := if cond then s.advance.advance else s.advance

/-! ### The call stack (10_state.md R25) -/

/-- Replace the stacked addresses. -/
def State.setStack (s : State) (stack : List Word) : State := { s with stack := stack }

/-- Push(v) with STACK_DEPTH `depth`: none is StackError(overflow), which the caller raises (R25). -/
def State.push (depth : Nat) (s : State) (ret : Word) : Option State :=
  if s.stack.length < depth then some (s.setStack (ret :: s.stack)) else none

/-- Pop(): the last pushed address and the state without it; none is StackError(underflow), which the caller raises (R25). -/
def State.pop (s : State) : Option (Word × State) :=
  match s.stack with
  | [] => none
  | ret :: rest => some (ret, s.setStack rest)

/-! ### The other registers -/

/-- Write I (R22). -/
def State.setI (s : State) (a : Word) : State := { s with i := a }

/-- Write DT (R26). -/
def State.setDt (s : State) (b : Byte) : State := { s with dt := b }

/-- Write ST (R26). -/
def State.setSt (s : State) (b : Byte) : State := { s with st := b }

/-- Replace memory. -/
def State.setMem (s : State) (m : Memory) : State := { s with mem := m }

/-- Replace the framebuffer and mark it dirty: every completed 00E0 and DXYN does both (R28, R155). -/
def State.setFb (s : State) (fb : Vector (BitVec 64) 32) : State := { s with fb := fb, dirty := true }

/-- The pixel FB[r][c] (R27): column 0 is the most significant bit of the row (R179). -/
def State.pixel (s : State) (r : Fin 32) (c : Fin 64) : Bool := (s.fb.get r).getMsbD c.val

/-- One more random byte has been drawn (log entry 1). -/
def State.countDraw (s : State) : State := { s with draws := s.draws + 1 }

end Machine
end Sys2Proof
end

