-- ==== Sys2Proof/Machine/Cycle.lean ====
section
/-! DEFINITION. The step around the instruction: fetch, decode, dispatch (40_step.md R100 to R106). -/

namespace Sys2Proof
namespace Machine

/-- The fetch `MemRead(PC, 2)`: big-endian, none when PC >= 0xFFF, which is the BoundsError (R56, R101). -/
def State.fetchWord (s : State) : Option Word :=
  if s.pc.toNat + 1 < Config.memSize then
    some (wordOfBytes (s.mem.readByte s.pc.toNat) (s.mem.readByte (s.pc.toNat + 1)))
  else none

/-- Step, with `run` giving each instruction its effect on the pre-state: in Halted nothing changes (R106); the fetch comes
first, then the decode, then the instruction (R100, R104, R195). -/
def stepBy (run : Instr → State → Host.Outcome State Fault Refusal) (s : State) : Host.Outcome State Fault Refusal :=
  match s.mode with
  | .halted => .next s
  | .running =>
    match s.fetchWord with
    | none => raise .bounds s.pc s
    | some w =>
      match decode w with
      | .error _ => raise .decode w s
      | .ok i => run i s

/-- The place the next step fetches from, made fetchable: Running with no fault recorded, and PC = 0x200 where PC itself
cannot be fetched from. A running machine whose PC is below 0xFFF is left as it is. -/
def State.readyToFetch (s : State) : State :=
  match s.mode with
  | .running => if s.pc.toNat + 1 < Config.memSize then s else { s with pc := 0x200 }
  | .halted => { s with mode := .running, fault := .empty, pc := if s.pc.toNat + 1 < Config.memSize then s.pc else 0x200 }

/-- The word stored, high byte first, where the next step fetches (R57). -/
def State.placeWord (s : State) (w : Word) : State :=
  let t := s.readyToFetch
  t.setMem (t.mem.writeBytes t.pc.toNat [highByte w, lowByte w])

end Machine
end Sys2Proof
end

