-- ==== Sys2Proof/Machine/Operands.lean ====
section
/-! DEFINITION. Operand forms: registers by field, the register run V0 to Vx, immediates, the decimal digits, and the place of
a sprite on the framebuffer (30_encoding.md R81, R83; 43_index_memory.md R146; 44_display.md R151, R152, R154). -/

namespace Sys2Proof
namespace Machine

/-- Read V[x] (R20). -/
def State.reg (s : State) (x : Reg) : Byte := s.v.get x

/-- Write V[x] (R20). -/
def State.setReg (s : State) (x : Reg) (b : Byte) : State := { s with v := s.v.set x.val b x.isLt }

/-- VF, register 15, the flag (R21). -/
abbrev vF : Reg := 15

/-- The run V0 to Vx that FX55 stores (R144). -/
def State.regRun (s : State) (x : Reg) : List Byte := s.v.toList.take (x.val + 1)

/-- Registers from number `k` up receive the bytes in order (R145). -/
def loadFrom : Nat → List Byte → Vector Byte 16 → Vector Byte 16
  | _, [], v => v
  | k, b :: bs, v => loadFrom (k + 1) bs (v.setIfInBounds k b)

/-- The bytes fill V0, V1, ... in order; registers above stay (R145). -/
def State.setRegRun (s : State) (bytes : List Byte) : State := { s with v := loadFrom 0 bytes s.v }

/-- A 12-bit immediate as an address (R83). -/
def immAddr (nnn : BitVec 12) : Word := nnn.setWidth 16

/-- The target of BNNN: a 16-bit sum with no mask (R117). -/
def offsetAddr (nnn : BitVec 12) (b : Byte) : Word := nnn.setWidth 16 + b.setWidth 16

/-- The address of a font glyph: 0x050 + 5 * Vx at 16 bits, no mask on Vx (R142). -/
def glyphAddr (b : Byte) : Word := BitVec.ofNat 16 (Config.fontBase + Config.glyphHeight * b.toNat)

/-- The sum FX1E leaves in I: modulo 2^I_WRAP_BITS (R141). -/
def indexSum (w : Config.IndexWrap) (i : Word) (b : Byte) : Word := BitVec.ofNat 16 ((i.toNat + b.toNat) % 2 ^ wrapBits w)

/-- Hundreds, tens and ones, most significant first (R143). -/
def decimalDigits (b : Byte) : List Byte :=
  [BitVec.ofNat 8 (b.toNat / 100), BitVec.ofNat 8 (b.toNat / 10 % 10), BitVec.ofNat 8 (b.toNat % 10)]

/-- The register a shift takes its source from (R128, R130, R133). -/
def shiftSource : Config.ShiftQuirk → Reg → Reg → Reg
  | .modern, x, _ => x
  | .legacy, _, y => y

/-- The start column of a sprite (R151). -/
def startCol (b : Byte) : Nat := b.toNat % Config.fbCols

/-- The start row of a sprite (R151). -/
def startRow (b : Byte) : Nat := b.toNat % Config.fbRows

/-- The framebuffer row that sprite row `k` falls on; clipped away past the bottom when DRAW_EDGE = clip (R152). -/
def targetRow : Config.DrawEdge → Nat → Nat → Option (Fin 32)
  | .wrap, row, k => some (Fin.ofNat 32 (row + k))
  | .clip, row, k => if h : row + k < 32 then some ⟨row + k, h⟩ else none

/-- The columns a sprite byte sets, as a row word: bit 7 at `col`, bit 0 at `col + 7`, wrapped modulo 64 or clipped at the
right edge (R151, R152, R154). -/
def spriteMask : Config.DrawEdge → Nat → Byte → BitVec 64
  | .wrap, col, b => (b.setWidth 64 <<< 56).rotateRight col
  | .clip, col, b => (b.setWidth 64 <<< 56) >>> col

/-- XOR the sprite rows, from number `k` on, into the framebuffer (R151). -/
def drawRows (e : Config.DrawEdge) (row col : Nat) : Nat → List Byte → Vector (BitVec 64) 32 → Vector (BitVec 64) 32
  | _, [], fb => fb
  | k, b :: bs, fb =>
    match targetRow e row k with
    | some r => drawRows e row col (k + 1) bs (fb.set r.val (fb.get r ^^^ spriteMask e col b) r.isLt)
    | none => drawRows e row col (k + 1) bs fb

end Machine
end Sys2Proof
end

