-- ==== Sys2Proof/Machine/Flags.lean ====
section
/-! DEFINITION. The flags: what each of the seven flag-writing instructions leaves in VF (10_state.md R21). -/

namespace Sys2Proof
namespace Machine

/-- A flag as VF holds it: 1 or 0 (R21). -/
def flagByte (f : Bool) : Byte := if f then 1 else 0

/-- Write the flag to VF. -/
def State.setFlag (s : State) (f : Bool) : State := s.setReg vF (flagByte f)

/-- Write a result to V[x], then the flag to VF, the flag last: with x = 0xF the result is lost (R107 b). -/
def State.setResult (s : State) (x : Reg) (b : Byte) (f : Bool) : State := (s.setReg x b).setFlag f

/-- 8XY4: the true sum exceeds 255 (R126). -/
def carry (a b : Byte) : Bool := decide (255 < a.toNat + b.toNat)

/-- 8XY5, and 8XY7 with the operands exchanged: the true difference is not negative (R127, R129). -/
def noBorrow (a b : Byte) : Bool := decide (b.toNat ≤ a.toNat)

/-- 8XY6: the bit shifted out at the right (R128). -/
def lowBit (a : Byte) : Bool := a.getLsbD 0

/-- 8XYE: the bit shifted out at the left (R130). -/
def highBit (a : Byte) : Bool := a.getLsbD 7

/-- FX1E: the sum leaves the address range 0x000 to 0xFFF (R141). -/
def indexOverflow (i : Word) (b : Byte) : Bool := decide (0xFFF < i.toNat + b.toNat)

/-- DXYN: some set bit of sprite row `k` or a later one falls on a pixel that is on in `fb` (R153). -/
def collides (e : Config.DrawEdge) (row col : Nat) : Nat → List Byte → Vector (BitVec 64) 32 → Bool
  | _, [], _ => false
  | k, b :: bs, fb =>
    (match targetRow e row k with
      | some r => fb.get r &&& spriteMask e col b != 0
      | none => false) || collides e row col (k + 1) bs fb

end Machine
end Sys2Proof
end

