-- ==== Sys2Proof/Machine/Alu.lean ====
section
/-! DEFINITION. Register load and ALU: 6XNN, 7XNN, 8XY0 to 8XY7, 8XYE, CXNN (42_alu.md). Operands are read from the
pre-state and the flag is written last (40_step.md R107). -/

namespace Sys2Proof
namespace Machine

/-- 6XNN (R120). -/
def execLdImm (x : Reg) (nn : Byte) (s : State) : Host.Outcome State Fault Refusal :=
  .next (s.setReg x nn).advance

/-- 7XNN (R121): wraps, no flag. -/
def execAddImm (x : Reg) (nn : Byte) (s : State) : Host.Outcome State Fault Refusal :=
  .next (s.setReg x (s.reg x + nn)).advance

/-- 8XY0 (R122). -/
def execLdReg (x y : Reg) (s : State) : Host.Outcome State Fault Refusal :=
  .next (s.setReg x (s.reg y)).advance

/-- 8XY1 (R123): VF not written. -/
def execOrReg (x y : Reg) (s : State) : Host.Outcome State Fault Refusal :=
  .next (s.setReg x (s.reg x ||| s.reg y)).advance

/-- 8XY2 (R124): VF not written. -/
def execAndReg (x y : Reg) (s : State) : Host.Outcome State Fault Refusal :=
  .next (s.setReg x (s.reg x &&& s.reg y)).advance

/-- 8XY3 (R125): VF not written. -/
def execXorReg (x y : Reg) (s : State) : Host.Outcome State Fault Refusal :=
  .next (s.setReg x (s.reg x ^^^ s.reg y)).advance

/-- 8XY4 (R126). -/
def execAddReg (x y : Reg) (s : State) : Host.Outcome State Fault Refusal :=
  .next (s.setResult x (s.reg x + s.reg y) (carry (s.reg x) (s.reg y))).advance

/-- 8XY5 (R127). -/
def execSubReg (x y : Reg) (s : State) : Host.Outcome State Fault Refusal :=
  .next (s.setResult x (s.reg x - s.reg y) (noBorrow (s.reg x) (s.reg y))).advance

/-- 8XY6 with SHIFT_QUIRK `q` (R128, R133): a logical shift by one. -/
def shiftRight (q : Config.ShiftQuirk) (x y : Reg) (s : State) : Host.Outcome State Fault Refusal :=
  let src := s.reg (shiftSource q x y)
  .next (s.setResult x (src >>> 1) (lowBit src)).advance

/-- 8XY6 (R128). -/
def execShr (x y : Reg) (s : State) : Host.Outcome State Fault Refusal :=
  shiftRight hardware.shiftQuirk x y s

/-- 8XY7 (R129). -/
def execSubn (x y : Reg) (s : State) : Host.Outcome State Fault Refusal :=
  .next (s.setResult x (s.reg y - s.reg x) (noBorrow (s.reg y) (s.reg x))).advance

/-- 8XYE with SHIFT_QUIRK `q` (R130, R133). -/
def shiftLeft (q : Config.ShiftQuirk) (x y : Reg) (s : State) : Host.Outcome State Fault Refusal :=
  let src := s.reg (shiftSource q x y)
  .next (s.setResult x (src <<< 1) (highBit src)).advance

/-- 8XYE (R130). -/
def execShl (x y : Reg) (s : State) : Host.Outcome State Fault Refusal :=
  shiftLeft hardware.shiftQuirk x y s

/-- CXNN with the draw `r` (R131). -/
def randomWith (r : Byte) (x : Reg) (nn : Byte) (s : State) : Host.Outcome State Fault Refusal :=
  .next (s.setReg x (r &&& nn)).countDraw.advance

/-- CXNN (R131): the draw is the free value `Config.randomByte s.draws` (log entry 1). -/
def execRnd (x : Reg) (nn : Byte) (s : State) : Host.Outcome State Fault Refusal :=
  randomWith (Config.randomByte s.draws) x nn s

end Machine
end Sys2Proof
end

