-- ==== Sys2Proof/Machine/Control.lean ====
section
/-! DEFINITION. Control transfer: 00EE, 1NNN, 2NNN, 3XNN, 4XNN, 5XY0, 9XY0, BNNN (41_control_flow.md). A meaning is called on
the pre-state, where PC is the address p of the instruction. -/

namespace Sys2Proof
namespace Machine

/-- 00EE (R110). -/
def execRet (s : State) : Host.Outcome State Fault Refusal :=
  match s.pop with
  | none => raise .stack 0 s
  | some (ret, t) => .next (t.setPc ret)

/-- 1NNN (R111). -/
def execJp (nnn : BitVec 12) (s : State) : Host.Outcome State Fault Refusal :=
  .next (s.setPc (immAddr nnn))

/-- 2NNN with STACK_DEPTH `depth` (R112): the return address is p + 2. -/
def callTo (depth : Nat) (nnn : BitVec 12) (s : State) : Host.Outcome State Fault Refusal :=
  match s.push depth (s.pc + 2) with
  | none => raise .stack 1 s
  | some t => .next (t.setPc (immAddr nnn))

/-- 2NNN (R112). -/
def execCall (nnn : BitVec 12) (s : State) : Host.Outcome State Fault Refusal :=
  callTo hardware.stackDepth nnn s

/-- 3XNN (R113). -/
def execSeImm (x : Reg) (nn : Byte) (s : State) : Host.Outcome State Fault Refusal :=
  .next (s.skipIf (s.reg x == nn))

/-- 4XNN (R114). -/
def execSneImm (x : Reg) (nn : Byte) (s : State) : Host.Outcome State Fault Refusal :=
  .next (s.skipIf (s.reg x != nn))

/-- 5XY0 (R115). -/
def execSeReg (x y : Reg) (s : State) : Host.Outcome State Fault Refusal :=
  .next (s.skipIf (s.reg x == s.reg y))

/-- 9XY0 (R116). -/
def execSneReg (x y : Reg) (s : State) : Host.Outcome State Fault Refusal :=
  .next (s.skipIf (s.reg x != s.reg y))

/-- BNNN (R117): the register is always V0. -/
def execJpV0 (nnn : BitVec 12) (s : State) : Host.Outcome State Fault Refusal :=
  .next (s.setPc (offsetAddr nnn (s.reg 0)))

end Machine
end Sys2Proof
end

