-- ==== Sys2Proof/Machine/Display.lean ====
section
/-! DEFINITION. The display instructions: 00E0 and DXYN (44_display.md). -/

namespace Sys2Proof
namespace Machine

/-- 00E0 (R150): all pixels off, DIRTY set, VF not written. -/
def execCls (s : State) : Host.Outcome State Fault Refusal :=
  .next (s.setFb (Vector.replicate 32 0)).advance

/-- DXYN with DRAW_EDGE `e` (R151 to R155): the range check precedes every pixel write; every read is from the pre-state. -/
def draw (e : Config.DrawEdge) (x y : Reg) (n : BitVec 4) (s : State) : Host.Outcome State Fault Refusal :=
  match s.mem.readRange s.i.toNat n.toNat with
  | none => raise .bounds s.i s
  | some bytes =>
    let row := startRow (s.reg y)
    let col := startCol (s.reg x)
    .next (((s.setFb (drawRows e row col 0 bytes s.fb)).setFlag (collides e row col 0 bytes s.fb)).advance)

/-- DXYN (R151). -/
def execDrw (x y : Reg) (n : BitVec 4) (s : State) : Host.Outcome State Fault Refusal :=
  draw hardware.drawEdge x y n s

end Machine
end Sys2Proof
end

