-- ==== Sys2Proof/Machine/Index.lean ====
section
/-! DEFINITION. The index register and memory transfer: ANNN, FX1E, FX29, FX33, FX55, FX65 (43_index_memory.md). None of the
transfers changes I. -/

namespace Sys2Proof
namespace Machine

/-- ANNN (R140). -/
def execLdI (nnn : BitVec 12) (s : State) : Host.Outcome State Fault Refusal :=
  .next (s.setI (immAddr nnn)).advance

/-- FX1E with I_WRAP_BITS `w` (R141): VF always written, last. -/
def addIndex (w : Config.IndexWrap) (x : Reg) (s : State) : Host.Outcome State Fault Refusal :=
  .next ((s.setI (indexSum w s.i (s.reg x))).setFlag (indexOverflow s.i (s.reg x))).advance

/-- FX1E (R141). -/
def execAddI (x : Reg) (s : State) : Host.Outcome State Fault Refusal :=
  addIndex hardware.indexWrap x s

/-- FX29 (R142). -/
def execLdF (x : Reg) (s : State) : Host.Outcome State Fault Refusal :=
  .next (s.setI (glyphAddr (s.reg x))).advance

/-- A run of bytes stored at I, checked as a whole (R55, R146): the shared form of FX33 and FX55. -/
def storeAtI (bytes : List Byte) (s : State) : Host.Outcome State Fault Refusal :=
  match s.mem.writeRange s.i.toNat bytes with
  | none => raise .bounds s.i s
  | some m => .next (s.setMem m).advance

/-- FX33 (R143). -/
def execLdB (x : Reg) (s : State) : Host.Outcome State Fault Refusal :=
  storeAtI (decimalDigits (s.reg x)) s

/-- FX55 (R144). -/
def execSpill (x : Reg) (s : State) : Host.Outcome State Fault Refusal :=
  storeAtI (s.regRun x) s

/-- FX65 (R145). -/
def execFill (x : Reg) (s : State) : Host.Outcome State Fault Refusal :=
  match s.mem.readRange s.i.toNat (x.val + 1) with
  | none => raise .bounds s.i s
  | some bytes => .next (s.setRegRun bytes).advance

end Machine
end Sys2Proof
end

