-- ==== Sys2Proof/Machine/Timers.lean ====
section
/-! DEFINITION. Timers and the key opcodes: FX07, FX15, FX18, EX9E, EXA1, FX0A (45_timers_keys.md). The three key opcodes
are decoded and raise DecodeError with the instruction word as info, whatever K and Vx hold (R164 to R166). -/

namespace Sys2Proof
namespace Machine

/-- FX07 (R160). -/
def execLdVxDt (x : Reg) (s : State) : Host.Outcome State Fault Refusal :=
  .next (s.setReg x s.dt).advance

/-- FX15 (R161). -/
def execLdDtVx (x : Reg) (s : State) : Host.Outcome State Fault Refusal :=
  .next (s.setDt (s.reg x)).advance

/-- FX18 (R162). -/
def execLdStVx (x : Reg) (s : State) : Host.Outcome State Fault Refusal :=
  .next (s.setSt (s.reg x)).advance

/-- EX9E (R164). -/
def execSkp (x : Reg) (s : State) : Host.Outcome State Fault Refusal :=
  raise .decode (encode (.skp x)) s

/-- EXA1 (R165). -/
def execSknp (x : Reg) (s : State) : Host.Outcome State Fault Refusal :=
  raise .decode (encode (.sknp x)) s

/-- FX0A (R166). -/
def execLdVxK (x : Reg) (s : State) : Host.Outcome State Fault Refusal :=
  raise .decode (encode (.ldVxK x)) s

end Machine
end Sys2Proof
end

