-- ==== Sys2Proof/Machine/Step.lean ====
section
/-! DEFINITION. step: one Step of the machine, the random draw being the free value of log entry 1 (40_step.md R100). -/

namespace Sys2Proof
namespace Machine

/-- One Step (R100, R174). -/
def step (s : State) : Host.Outcome State Fault Refusal := stepBy exec s

/-- `s` with the instruction word `w` placed where the next step fetches (log entry 18). -/
def State.withFetchWord (s : State) (_nbits w : Nat) : State := s.placeWord (BitVec.ofNat 16 w)

end Machine
end Sys2Proof
end

