-- ==== Sys2Proof/Machine/ExecWith.lean ====
section
/-! DEFINITION. The machine at any parameters of 00_scope.md R4 and with the draw as an input: Step(r) as 40_step.md R100
writes it. At the hardware's parameters and the free draw it is `exec` (Laws/Step.lean). -/

namespace Sys2Proof
namespace Machine

/-- The instructions at the parameters `p` and with the draw `r`. Six of them depend on either: 2NNN, 8XY6, 8XYE, CXNN, DXYN
and FX1E are given by their parametric forms, the others by their one meaning. -/
def execWith (p : Config.Params) (r : Byte) (i : Instr) (s : State) : Host.Outcome State Fault Refusal :=
  match i with
  | .cls => execCls s
  | .ret => execRet s
  | .jp nnn => execJp nnn s
  | .call nnn => callTo p.stackDepth nnn s
  | .seImm x nn => execSeImm x nn s
  | .sneImm x nn => execSneImm x nn s
  | .seReg x y => execSeReg x y s
  | .ldImm x nn => execLdImm x nn s
  | .addImm x nn => execAddImm x nn s
  | .ldReg x y => execLdReg x y s
  | .orReg x y => execOrReg x y s
  | .andReg x y => execAndReg x y s
  | .xorReg x y => execXorReg x y s
  | .addReg x y => execAddReg x y s
  | .subReg x y => execSubReg x y s
  | .shr x y => shiftRight p.shiftQuirk x y s
  | .subn x y => execSubn x y s
  | .shl x y => shiftLeft p.shiftQuirk x y s
  | .sneReg x y => execSneReg x y s
  | .ldI nnn => execLdI nnn s
  | .jpV0 nnn => execJpV0 nnn s
  | .rnd x nn => randomWith r x nn s
  | .drw x y n => draw p.drawEdge x y n s
  | .skp x => execSkp x s
  | .sknp x => execSknp x s
  | .ldVxDt x => execLdVxDt x s
  | .ldVxK x => execLdVxK x s
  | .ldDtVx x => execLdDtVx x s
  | .ldStVx x => execLdStVx x s
  | .addI x => addIndex p.indexWrap x s
  | .ldF x => execLdF x s
  | .ldB x => execLdB x s
  | .spill x => execSpill x s
  | .fill x => execFill x s

/-- Step(r) at the parameters `p` (R100, R174). -/
def stepWith (p : Config.Params) (r : Byte) (s : State) : Host.Outcome State Fault Refusal := stepBy (execWith p r) s

end Machine
end Sys2Proof
end

