-- ==== Sys2Proof/Machine/HostOps.lean ====
section
/-! DEFINITION. The seven operations by which a host drives the block, their outputs, what the host observes, and a session of
operations (46_host_operations.md; 45_timers_keys.md R163; 70_reset_and_hazards.md R210). -/

namespace Sys2Proof
namespace Machine

/-- The operations (R170), with their inputs: the image of Load, the mask of SetKeys, the draw of Step. -/
inductive HostOp where
  | reset
  | load (bytes : List Byte)
  | setKeys (mask : BitVec 16)
  | step (r : Byte)
  | tick
  | publish
  | dump
  deriving DecidableEq, Repr

/-- The `op` code of the signal table (R179). -/
def HostOp.code : HostOp → BitVec 3
  | .reset => 1
  | .load _ => 2
  | .setKeys _ => 3
  | .step _ => 4
  | .tick => 5
  | .publish => 6
  | .dump => 7

/-- Reset (R171, R210): memory zeroed, FONT written, everything else at its value of R35. The random source is reseeded: the
count of draws runs on, so the draws to come are fresh free values (log entry 2). -/
def resetOp (p : Config.Params) (s : State) : State :=
  { State.reset with mem := Memory.writeBytes [] Config.fontBase p.font.toList, draws := s.draws }

/-- Load (R172): the image at 0x200; one of more than 3584 bytes raises BoundsError with fault_pc = info = 0x0200 (R191). -/
def loadOp (bytes : List Byte) (s : State) : State :=
  match s.mode with
  | .halted => s
  | .running =>
    match s.mem.writeRange Config.programBase bytes with
    | none => s.halt .bounds 0x200 0x200
    | some m => s.setMem m

/-- SetKeys (R173), ignored in Halted (R178). -/
def setKeysOp (mask : BitVec 16) (s : State) : State :=
  match s.mode with
  | .halted => s
  | .running => { s with keys := mask }

/-- A timer counted down by one, floored at 0 (R163). -/
def tickDown (b : Byte) : Byte := if b = 0 then 0 else b - 1

/-- Tick (R163), ignored in Halted (R178). -/
def tickOp (s : State) : State :=
  match s.mode with
  | .halted => s
  | .running => (s.setDt (tickDown s.dt)).setSt (tickDown s.st)

/-- Publish (R176) clears DIRTY; in Halted it changes nothing (R178). -/
def publishOp (s : State) : State :=
  match s.mode with
  | .halted => s
  | .running => { s with dirty := false }

/-- The picture Publish hands out, in any mode: a copy of FB (R176, R178). -/
def publishOutput (s : State) : Vector (BitVec 64) 32 := s.fb

/-- The bytes Dump hands out, in any mode: all 4096 of them (R177). -/
def dumpOutput (s : State) : List Byte := s.mem.readBytes 0 Config.memSize

/-- What the host may observe between operations (R175), with the codes of R36, R179 and R194. -/
structure Observation where
  fb         : Vector (BitVec 64) 32
  dirty      : Bool
  mode       : BitVec 1
  faultCause : BitVec 2
  faultPc    : Word
  faultInfo  : Word
  dt         : Byte
  st         : Byte
  deriving DecidableEq, Repr

/-- The observation of a state (R175). -/
def State.observe (s : State) : Observation where
  fb := s.fb
  dirty := s.dirty
  mode := s.mode.code
  faultCause := s.fault.cause.code
  faultPc := s.fault.faultPc
  faultInfo := s.fault.info
  dt := s.dt
  st := s.st

/-- One host operation on the state (R170). -/
def hostOp (p : Config.Params) (op : HostOp) (s : State) : Host.Outcome State Fault Refusal :=
  match op with
  | .reset => .next (resetOp p s)
  | .load bytes => .next (loadOp bytes s)
  | .setKeys mask => .next (setKeysOp mask s)
  | .step r => stepWith p r s
  | .tick => .next (tickOp s)
  | .publish => .next (publishOp s)
  | .dump => .next s

/-- Whether a Step has been taken since the last Reset, after one more operation. -/
def steppedAfter (stepped : Bool) : HostOp → Bool
  | .reset => false
  | .step _ => true
  | _ => stepped

/-- A Load that no rule gives a result: to a running machine, after a Step (R65, R172, U14; R178 gives it one in Halted). -/
def loadTooLate (stepped : Bool) (op : HostOp) (s : State) : Bool :=
  match op with
  | .load _ => stepped && s.mode == .running
  | _ => false

/-- A run: operations applied one after another (R7, R170). `stepped` says whether a Step has been taken since the last Reset;
it belongs to the run, not to the machine (log entry 14). -/
def session (p : Config.Params) : List HostOp → Bool → State → Host.Outcome State Fault Refusal
  | [], _, s => .next s
  | op :: ops, stepped, s =>
    if loadTooLate stepped op s then .refused .loadAfterStep
    else
      match hostOp p op s with
      | .next t => session p ops (steppedAfter stepped op) t
      | .fault r => .fault r
      | .refused r => .refused r

end Machine
end Sys2Proof
end

