-- ==== Sys2Proof/Safety.lean ====
section
/-! DEFINITION. The terms in which claims about the machine are stated: the fatal conditions as the tables of
60_exceptions.md list them, the invariant, and the two ends of a run. -/

namespace Sys2Proof
namespace Safety

open Sys2Proof.Machine

/-- The execute-time fatal condition of an instruction, cause and info (R191 to R193, R164 to R166): at most one each (R195).
That 2NNN overflows with more than 16 addresses stacked too is the model's choice (log entry 21). -/
def executeFault (i : Instr) (s : State) : Option (Cause × Word) :=
  match i with
  | .ret => if s.stack = [] then some (.stack, 0) else none
  | .call _ => if 16 ≤ s.stack.length then some (.stack, 1) else none
  | .drw _ _ n => if 4096 < s.i.toNat + n.toNat then some (.bounds, s.i) else none
  | .ldB _ => if 4096 < s.i.toNat + 3 then some (.bounds, s.i) else none
  | .spill x => if 4096 < s.i.toNat + x.val + 1 then some (.bounds, s.i) else none
  | .fill x => if 4096 < s.i.toNat + x.val + 1 then some (.bounds, s.i) else none
  | .skp _ | .sknp _ | .ldVxK _ => some (.decode, encode i)
  | .cls | .jp _ | .seImm _ _ | .sneImm _ _ | .seReg _ _ | .ldImm _ _ | .addImm _ _ | .ldReg _ _ | .orReg _ _
  | .andReg _ _ | .xorReg _ _ | .addReg _ _ | .subReg _ _ | .shr _ _ | .subn _ _ | .shl _ _ | .sneReg _ _ | .ldI _
  | .jpV0 _ | .rnd _ _ | .ldVxDt _ | .ldDtVx _ | .ldStVx _ | .addI _ | .ldF _ => none

/-- The fatal condition a Step of a running machine raises, if any, in the priority of R195: fetch, decode, execute. -/
def fatalCondition (s : State) : Option (Cause × Word) :=
  match s.fetchWord with
  | none => some (.bounds, s.pc)
  | some w =>
    match decode w with
    | .error _ => some (.decode, w)
    | .ok i => executeFault i s

/-- What every reachable state satisfies: the canonical memory, the ranges of I (R22), PC and the stacked addresses (R24), the
depth (R25), and FAULT recorded exactly in Halted (R32, R36). -/
structure Inv (s : State) : Prop where
  memory  : s.mem.wf = true
  index   : s.i.toNat ≤ 0xFFF
  pc      : s.pc.toNat ≤ 0x10FE
  depth   : s.stack.length ≤ 16
  returns : ∀ a ∈ s.stack, a.toNat ≤ 0x1000
  running : s.mode = .running → s.fault = .empty
  halted  : s.mode = .halted → s.fault.cause ≠ .none
  faultPc : s.fault.faultPc.toNat ≤ 0x10FE

/-- The frame most claims use: everything but V and PC is as before, every byte of memory included (R105). -/
structure SameOutsideRegs (s t : State) : Prop where
  i      : t.i = s.i
  stack  : t.stack = s.stack
  dt     : t.dt = s.dt
  st     : t.st = s.st
  fb     : t.fb = s.fb
  dirty  : t.dirty = s.dirty
  keys   : t.keys = s.keys
  mode   : t.mode = s.mode
  fault  : t.fault = s.fault
  memory : ∀ a, t.mem.readByte a = s.mem.readByte a
  draws  : t.draws = s.draws

/-- The general registers an instruction names as its destination: V[x], or the run V0 to Vx of FX65 (R20). -/
def isDestination (i : Instr) (z : Reg) : Bool :=
  match i with
  | .ldImm x _ | .addImm x _ | .rnd x _ | .ldVxDt x => z == x
  | .ldReg x _ | .orReg x _ | .andReg x _ | .xorReg x _ | .addReg x _ | .subReg x _ | .shr x _ | .subn x _ | .shl x _ => z == x
  | .fill x => decide (z ≤ x)
  | .cls | .ret | .jp _ | .call _ | .seImm _ _ | .sneImm _ _ | .seReg _ _ | .sneReg _ _ | .ldI _ | .jpV0 _ | .drw _ _ _
  | .skp _ | .sknp _ | .ldVxK _ | .ldDtVx _ | .ldStVx _ | .addI _ | .ldF _ | .ldB _ | .spill _ => false

/-- The seven instructions that write VF as a side effect (the table of R21). -/
def writesFlag (i : Instr) : Bool :=
  match i with
  | .addReg _ _ | .subReg _ _ | .shr _ _ | .subn _ _ | .shl _ _ | .addI _ | .drw _ _ _ => true
  | .cls | .ret | .jp _ | .call _ | .seImm _ _ | .sneImm _ _ | .seReg _ _ | .sneReg _ _ | .ldI _ | .jpV0 _ | .rnd _ _
  | .skp _ | .sknp _ | .ldVxK _ | .ldDtVx _ | .ldStVx _ | .ldF _ | .ldB _ | .spill _ | .fill _ | .ldVxDt _ | .ldImm _ _
  | .addImm _ _ | .ldReg _ _ | .orReg _ _ | .andReg _ _ | .xorReg _ _ => false

/-- The eight instructions that write PC beyond the advance (R119). -/
def transfersControl (i : Instr) : Bool :=
  match i with
  | .ret | .jp _ | .call _ | .seImm _ _ | .sneImm _ _ | .seReg _ _ | .sneReg _ _ | .jpV0 _ => true
  | .cls | .addReg _ _ | .subReg _ _ | .shr _ _ | .subn _ _ | .shl _ _ | .addI _ | .drw _ _ _ | .ldI _ | .rnd _ _
  | .skp _ | .sknp _ | .ldVxK _ | .ldDtVx _ | .ldStVx _ | .ldF _ | .ldB _ | .spill _ | .fill _ | .ldVxDt _ | .ldImm _ _
  | .addImm _ _ | .ldReg _ _ | .orReg _ _ | .andReg _ _ | .xorReg _ _ => false

/-- Pixel (r, c) takes a set bit of the sprite DXYN draws, with DRAW_EDGE = wrap: some bit `7 - j` of sprite byte `k` is 1 and
its target ((row + k) mod 32, (col + j) mod 64) is that pixel (R151, R153). -/
def SpriteCovers (s : State) (x y : Reg) (n : BitVec 4) (r : Fin 32) (c : Fin 64) : Prop :=
  ∃ k j, k < n.toNat ∧ j < 8 ∧ (s.mem.readByte (s.i.toNat + k)).getLsbD (7 - j) = true ∧
    ((s.reg y).toNat % 32 + k) % 32 = r.val ∧ ((s.reg x).toNat % 64 + j) % 64 = c.val

/-- The same with DRAW_EDGE = clip: only the start is reduced, and a pixel past an edge is dropped (R152). -/
def SpriteCoversClipped (s : State) (x y : Reg) (n : BitVec 4) (r : Fin 32) (c : Fin 64) : Prop :=
  ∃ k j, k < n.toNat ∧ j < 8 ∧ (s.mem.readByte (s.i.toNat + k)).getLsbD (7 - j) = true ∧
    (s.reg y).toNat % 32 + k = r.val ∧ (s.reg x).toNat % 64 + j = c.val

/-- The encoding clause of an instruction's rule: its word matches the row of the opcode map with this mask and match value, and
is decoded as the instruction (R85). -/
def Encodes (i : Instr) (mask pattern : Word) : Prop := encode i &&& mask = pattern ∧ decode (encode i) = .ok i

/-- The failed end of a run (R180 a). -/
def Failed (s : State) : Prop := s.mode = .halted

/-- The successful end of a run: a running machine whose next instruction is a jump to itself (R180 b). -/
def TerminalLoop (s : State) : Prop :=
  s.mode = .running ∧ ∃ a : BitVec 12, a.toNat ≤ 0xFFE ∧ s.pc = immAddr a ∧ s.fetchWord = some (0x1000 ||| immAddr a)

end Safety
end Sys2Proof
end

