-- ==== Sys2Proof/Certificates/Slice0/Obligations.lean ====
section
/-! DEFINITION. The statements for the provers, by the spec's files. In each, `exec` is called on the pre-state of the step,
where PC is the address p of the instruction, so p + 2 is `s.pc + 2`. A halted post-state carries the record of R196, whose
form and codes are the spec's own decisions D6 and D7 (log entry 3). -/

open Sys2Proof Sys2Proof.Machine Sys2Proof.Safety

/-! ### Encoding (30_encoding.md) -/

/-- Every instruction decodes back from the word it encodes to, every operand at every value its field admits (R81, R85). -/
def Obligations.DecodeEncodeRoundTrip : Prop := ∀ i : Instr, decode (encode i) = .ok i

/-- Every word the decoder accepts is the word of the instruction it gives: no bit is dropped, the ignored y field of 8XY6
and 8XYE included (R85, R88). -/
def Obligations.EncodeDecodeRoundTrip : Prop := ∀ (w : Word) (i : Instr), decode w = .ok i → encode i = w

/-- The decoder follows the opcode map: a word decodes to an instruction of a row iff (w AND mask) = match, and no word matches
two rows (R84, R85; strict matching is decision D9). -/
def Obligations.DecoderFollowsOpcodeMap : Prop :=
  (∀ (w : Word) (m : String),
    (∃ i, decode w = .ok i ∧ i.mnemonic = m) ↔ ∃ r ∈ opcodeMap, r.mnemonic = m ∧ w &&& r.mask = r.pattern) ∧
  ∀ (w : Word), ∀ r ∈ opcodeMap, ∀ r' ∈ opcodeMap, r.covers w = true → r'.covers w = true → r = r'

/-- The illegal words are exactly those of the table of R86, family by family (strict decoding is the spec's decision D9). -/
def Obligations.IllegalWordsByFamily : Prop :=
  ∀ w : Word,
    (decode w = .error .illegal0 ↔ w.toNat ≤ 0x0FFF ∧ w.toNat ≠ 0x00E0 ∧ w.toNat ≠ 0x00EE) ∧
    (decode w = .error .illegal5 ↔ w.toNat / 0x1000 = 5 ∧ w.toNat % 16 ≠ 0) ∧
    (decode w = .error .illegal8 ↔ w.toNat / 0x1000 = 8 ∧ (8 ≤ w.toNat % 16 ∧ w.toNat % 16 ≠ 14)) ∧
    (decode w = .error .illegal9 ↔ w.toNat / 0x1000 = 9 ∧ w.toNat % 16 ≠ 0) ∧
    (decode w = .error .illegalE ↔ w.toNat / 0x1000 = 14 ∧ w.toNat % 256 ≠ 0x9E ∧ w.toNat % 256 ≠ 0xA1) ∧
    (decode w = .error .illegalF ↔ w.toNat / 0x1000 = 15 ∧
      w.toNat % 256 ∉ [0x07, 0x0A, 0x15, 0x18, 0x1E, 0x29, 0x33, 0x55, 0x65]) ∧
    decode w ≠ .error .truncated

/-- Words written out from the encoding tables decode to the instructions they stand for (R81, R82, R90). -/
def Obligations.SpelledWordsDecode : Prop :=
  decode 0x00EE = .ok .ret ∧ decode 0x1234 = .ok (.jp 0x234) ∧ decode 0x612A = .ok (.ldImm 1 0x2A) ∧
    decode 0x8374 = .ok (.addReg 3 7) ∧ decode 0x812E = .ok (.shl 1 2) ∧ decode 0xA212 = .ok (.ldI 0x212) ∧
    decode 0xD125 = .ok (.drw 1 2 5) ∧ decode 0xF50A = .ok (.ldVxK 5) ∧ decode 0xF265 = .ok (.fill 2)

/-! ### The step (40_step.md, 60_exceptions.md) -/

/-- A step of a running machine whose PC is below 0xFFF runs the instruction decoded from the two bytes there, the byte at the
lower address being the high one; `exec` does the advance by 2 itself, so nothing is added around it (R56, R100, R102). -/
def Obligations.StepRunsDecodedInstruction : Prop :=
  ∀ (s : State) (w : Word) (i : Instr), s.mode = .running → s.pc.toNat ≤ 0xFFE →
    w.toNat = 256 * (s.mem.readByte s.pc.toNat).toNat + (s.mem.readByte (s.pc.toNat + 1)).toNat →
    decode w = .ok i → step s = exec i s

/-- A fetch with PC of 0xFFF or more raises BoundsError with fault_pc = info = PC, and a fetched word of no row raises
DecodeError with info the word (R101, R104, R191, R192; the record is D6, D7). -/
def Obligations.FetchAndDecodeFaultsHalt : Prop :=
  (∀ s : State, s.mode = .running → 0xFFF ≤ s.pc.toNat →
    step s = .next { s with mode := .halted, fault := ⟨.bounds, s.pc, s.pc⟩ }) ∧
  ∀ (s : State) (w : Word), s.mode = .running → s.pc.toNat ≤ 0xFFE →
    w.toNat = 256 * (s.mem.readByte s.pc.toNat).toNat + (s.mem.readByte (s.pc.toNat + 1)).toNat →
    wellFormedWord w = false → step s = .next { s with mode := .halted, fault := ⟨.decode, s.pc, w⟩ }

/-- A Step of a halted machine changes nothing (R106, decision D16). -/
def Obligations.HaltedStepChangesNothing : Prop := ∀ s : State, s.mode = .halted → step s = .next s

/-- Every instruction and every step answers a next state, from every state: the machine never faults or refuses; a fatal
condition is taken as a halted next state (R196; log entry 3). -/
def Obligations.StepAlwaysAnswersNextState : Prop :=
  (∀ (i : Instr) (s : State), ∃ t, exec i s = .next t) ∧ ∀ s : State, ∃ t, step s = .next t

/-- The fatal conditions of R191 to R193, in the priority of R195, decide how a running machine steps: where one holds, the
post-state is the pre-state with MODE and FAULT changed and nothing else, and where none holds the machine goes on Running
with FAULT as it was (R195 to R197). The overflow at 16 is decision D5; above 16 it is the model's choice (log entry 21). -/
def Obligations.FatalConditionsDecideTheStep : Prop :=
  ∀ s : State, s.mode = .running →
    (∀ c info, fatalCondition s = some (c, info) →
      step s = .next { s with mode := .halted, fault := ⟨c, s.pc, info⟩ }) ∧
    (fatalCondition s = none → ∃ t, step s = .next t ∧ t.mode = .running ∧ t.fault = s.fault)

/-- A word placed where the next step fetches is what the next step runs (the model's own device, log entry 18). -/
def Obligations.PlacedWordRunsNext : Prop :=
  ∀ (s : State) (w : Nat) (i : Instr), decode (BitVec.ofNat 16 w) = .ok i →
    step (s.withFetchWord 16 w) = exec i (s.withFetchWord 16 w)

/-! ### The invariant (10_state.md R22, R24, R25, R36) -/

/-- Every step keeps the invariant: canonical memory, I within 12 bits, PC at most 0x10FE, at most 16 return addresses of at
most 0x1000 each, FAULT recorded exactly in Halted. -/
def Obligations.StepKeepsInvariant : Prop := ∀ s t : State, Inv s → step s = .next t → Inv t

/-- The reset state meets the invariant. -/
def Obligations.ResetMeetsInvariant : Prop := Inv State.reset

/-- Every session of host operations, a single operation among them, keeps the invariant, whatever the host's schedule and the
draws: a session from a state that meets it never lets PC pass 0x10FE nor I pass 0xFFF (R22, R24, R25, R36). -/
def Obligations.SessionsKeepInvariant : Prop :=
  ∀ (ops : List HostOp) (stepped : Bool) (s t : State), Inv s → session hardware ops stepped s = .next t → Inv t

/-! ### Memory (20_memory.md) -/

/-- A written range reads back exactly, and every address outside it reads as before (R54, R55, source property S8-1). -/
def Obligations.RangeReadsBack : Prop :=
  ∀ (m m' : Memory) (p : Nat) (bytes : List Byte), m.writeRange p bytes = some m' →
    m'.readRange p bytes.length = some bytes ∧
      ∀ a, a < p ∨ p + bytes.length ≤ a → m'.readByte a = m.readByte a

/-- Canonical memories that read alike are equal: the model's representation has one list per memory (log entry 15). -/
def Obligations.CanonicalMemoriesExtensional : Prop :=
  ∀ m m' : Memory, m.wf = true → m'.wf = true → (∀ a, m.readByte a = m'.readByte a) → m = m'

/-- Bytes stored by FX55 are what a later fetch reads there: two stored bytes under PC make the next instruction word (R64). -/
def Obligations.SpilledBytesAreFetched : Prop :=
  ∀ (s t : State) (x z z' : Reg) (q : Word), s.i.toNat + x.val + 1 ≤ 4096 → exec (.spill x) s = .next t →
    z ≤ x → z' ≤ x → q.toNat = s.i.toNat + z.val → q.toNat + 1 = s.i.toNat + z'.val →
    ({ t with pc := q } : State).fetchWord = some (wordOfBytes (s.reg z) (s.reg z'))

/-! ### Who writes what (10_state.md) -/

/-- Only FX33 and FX55 write memory (R33, R51). -/
def Obligations.OnlyStoresWriteMemory : Prop :=
  ∀ (i : Instr) (s t : State), exec i s = .next t → (∀ x, i ≠ .ldB x) → (∀ x, i ≠ .spill x) →
    ∀ a, t.mem.readByte a = s.mem.readByte a

/-- Only 2NNN and 00EE touch the call stack (R25). -/
def Obligations.OnlyCallAndReturnTouchStack : Prop :=
  ∀ (i : Instr) (s t : State), exec i s = .next t → (∀ nnn, i ≠ .call nnn) → i ≠ .ret → t.stack = s.stack

/-- Only the eight instructions of 41_control_flow.md write PC beyond the advance: any other instruction that completes leaves
p + 2 (R102, R119). -/
def Obligations.OnlyTransfersRedirectPc : Prop :=
  ∀ (i : Instr) (s t : State), s.mode = .running → exec i s = .next t → t.mode = .running →
    transfersControl i = false → t.pc = s.pc + 2

/-- Only ANNN, FX1E and FX29 write I (R22). -/
def Obligations.OnlyIndexInstructionsWriteI : Prop :=
  ∀ (i : Instr) (s t : State), exec i s = .next t → (∀ nnn, i ≠ .ldI nnn) → (∀ x, i ≠ .addI x) → (∀ x, i ≠ .ldF x) →
    t.i = s.i

/-- DT is written by FX15 only and ST by FX18 only: no other instruction moves a timer (R26). -/
def Obligations.OnlyTimerInstructionsWriteTimers : Prop :=
  ∀ (i : Instr) (s t : State), exec i s = .next t →
    ((∀ x, i ≠ .ldDtVx x) → t.dt = s.dt) ∧ ((∀ x, i ≠ .ldStVx x) → t.st = s.st)

/-- FB and DIRTY are written by 00E0 and DXYN only, and a completed one of them leaves DIRTY set (R27, R28, R155). -/
def Obligations.OnlyDisplayInstructionsTouchPicture : Prop :=
  ∀ (i : Instr) (s t : State), s.mode = .running → exec i s = .next t →
    (i ≠ .cls → (∀ x y n, i ≠ .drw x y n) → t.fb = s.fb ∧ t.dirty = s.dirty) ∧
    (t.mode = .running → (i = .cls ∨ ∃ x y n, i = .drw x y n) → t.dirty = true)

/-- A general register changes only as a destination named by the instruction, or as VF under one of the seven flag-writing
instructions (R20, R21). -/
def Obligations.RegistersChangeOnlyAsNamed : Prop :=
  ∀ (i : Instr) (s t : State) (z : Reg), exec i s = .next t → isDestination i z = false →
    (writesFlag i = false ∨ z ≠ 15) → t.reg z = s.reg z

/-- K is read by nothing: two sessions that start alike but for the key snapshot end alike but for it; what K ends as is left
open (R29; that EX9E, EXA1 and FX0A do not read it is decision D8). -/
def Obligations.KeysInfluenceNothing : Prop :=
  ∀ (ops : List HostOp) (stepped : Bool) (s t : State) (k : BitVec 16), session hardware ops stepped s = .next t →
    ∃ k', session hardware ops stepped { s with keys := k } = .next { t with keys := k' }

/-! ### Control transfer (41_control_flow.md) -/

/-- 1NNN writes NNN to PC and nothing else; a jump to its own address leaves the whole state unchanged (R111). -/
def Obligations.JumpGoesToTarget : Prop :=
  ∀ (nnn : BitVec 12) (s : State), Encodes (.jp nnn) 0xF000 0x1000 ∧
    ∃ t, exec (.jp nnn) s = .next t ∧ t.pc.toNat = nnn.toNat ∧
    (∀ z, t.reg z = s.reg z) ∧ SameOutsideRegs s t ∧ (s.pc.toNat = nnn.toNat → t = s)

/-- 2NNN pushes p + 2 and jumps, while fewer than 16 addresses are stacked (R112; the depth is decision D5). -/
def Obligations.CallPushesReturnAddress : Prop :=
  ∀ (nnn : BitVec 12) (s : State), s.stack.length < 16 → ∃ t, exec (.call nnn) s = .next t ∧
    t.pc.toNat = nnn.toNat ∧ t.stack = (s.pc + 2) :: s.stack ∧ (∀ z, t.reg z = s.reg z) ∧
    SameOutsideRegs s { t with stack := s.stack }

/-- 00EE pops the most recently pushed address into PC (R110). -/
def Obligations.ReturnPopsIntoPc : Prop :=
  ∀ (s : State) (a : Word) (rest : List Word), s.stack = a :: rest → ∃ t, exec .ret s = .next t ∧
    t.pc = a ∧ t.stack = rest ∧ (∀ z, t.reg z = s.reg z) ∧ SameOutsideRegs s { t with stack := s.stack }

/-- 00EE with an empty stack raises StackError with info 0, and 2NNN with 16 addresses stacked raises it with info 1 (R110, R112,
R193; the depth is D5, the record D6, D7). That it does so with more than 16, in a state no run reaches, is the model's own
choice (log entry 21, DESIGN CHOICE). -/
def Obligations.StackErrorsHalt : Prop :=
  (∀ s : State, s.stack = [] → exec .ret s = .next { s with mode := .halted, fault := ⟨.stack, s.pc, 0⟩ }) ∧
  ∀ (nnn : BitVec 12) (s : State), 16 ≤ s.stack.length →
    exec (.call nnn) s = .next { s with mode := .halted, fault := ⟨.stack, s.pc, 1⟩ }

/-- A call followed, any number of balanced steps later, by a return comes back to the instruction after the call, with the
stack as it was before the call (source property S8-7; R110, R112). -/
def Obligations.CallThenReturnComesBack : Prop :=
  ∀ (nnn : BitVec 12) (s t u v : State), s.stack.length < 16 → exec (.call nnn) s = .next t → u.stack = t.stack →
    exec .ret u = .next v → v.pc = s.pc + 2 ∧ v.stack = s.stack

/-- The four compare-and-skip instructions: PC becomes p + 4 when the comparison holds and p + 2 when it does not, and nothing
else changes (R113 to R116). -/
def Obligations.SkipsCompareAndSkip : Prop :=
  (∀ (x : Reg) (nn : Byte) (s : State), Encodes (.seImm x nn) 0xF000 0x3000 ∧ ∃ t, exec (.seImm x nn) s = .next t ∧
    t.pc = (if s.reg x = nn then s.pc + 4 else s.pc + 2) ∧ (∀ z, t.reg z = s.reg z) ∧ SameOutsideRegs s t) ∧
  (∀ (x : Reg) (nn : Byte) (s : State), Encodes (.sneImm x nn) 0xF000 0x4000 ∧ ∃ t, exec (.sneImm x nn) s = .next t ∧
    t.pc = (if s.reg x ≠ nn then s.pc + 4 else s.pc + 2) ∧ (∀ z, t.reg z = s.reg z) ∧ SameOutsideRegs s t) ∧
  (∀ (x y : Reg) (s : State), Encodes (.seReg x y) 0xF00F 0x5000 ∧ ∃ t, exec (.seReg x y) s = .next t ∧
    t.pc = (if s.reg x = s.reg y then s.pc + 4 else s.pc + 2) ∧ (∀ z, t.reg z = s.reg z) ∧ SameOutsideRegs s t) ∧
  (∀ (x y : Reg) (s : State), Encodes (.sneReg x y) 0xF00F 0x9000 ∧ ∃ t, exec (.sneReg x y) s = .next t ∧
    t.pc = (if s.reg x ≠ s.reg y then s.pc + 4 else s.pc + 2) ∧ (∀ z, t.reg z = s.reg z) ∧ SameOutsideRegs s t)

/-- BNNN leaves NNN + V0 in PC, not reduced modulo 4096 (R117, decision D30). -/
def Obligations.OffsetJumpAddsV0 : Prop :=
  ∀ (nnn : BitVec 12) (s : State), ∃ t, exec (.jpV0 nnn) s = .next t ∧ t.pc.toNat = nnn.toNat + (s.reg 0).toNat ∧
    (∀ z, t.reg z = s.reg z) ∧ SameOutsideRegs s t

/-! ### Register load and ALU (42_alu.md) -/

/-- 6XNN loads the immediate and writes no other register, no flag (R120). -/
def Obligations.LoadImmediate : Prop :=
  ∀ (x : Reg) (nn : Byte) (s : State), Encodes (.ldImm x nn) 0xF000 0x6000 ∧
    ∃ t, exec (.ldImm x nn) s = .next t ∧ t.reg x = nn ∧
    (∀ z, z ≠ x → t.reg z = s.reg z) ∧ t.pc = s.pc + 2 ∧ SameOutsideRegs s t

/-- 7XNN adds the immediate modulo 256 and writes no flag (R121). -/
def Obligations.AddImmediateWraps : Prop :=
  ∀ (x : Reg) (nn : Byte) (s : State), Encodes (.addImm x nn) 0xF000 0x7000 ∧ ∃ t, exec (.addImm x nn) s = .next t ∧
    (t.reg x).toNat = ((s.reg x).toNat + nn.toNat) % 256 ∧
    (∀ z, z ≠ x → t.reg z = s.reg z) ∧ t.pc = s.pc + 2 ∧ SameOutsideRegs s t

/-- 8XY0 copies Vy to Vx (R122). -/
def Obligations.CopyRegister : Prop :=
  ∀ (x y : Reg) (s : State), Encodes (.ldReg x y) 0xF00F 0x8000 ∧ ∃ t, exec (.ldReg x y) s = .next t ∧ t.reg x = s.reg y ∧
    (∀ z, z ≠ x → t.reg z = s.reg z) ∧ t.pc = s.pc + 2 ∧ SameOutsideRegs s t

/-- 8XY1, 8XY2, 8XY3 combine bit by bit and write no flag (R123 to R125; VF unchanged is decision D21). -/
def Obligations.LogicIsBitwise : Prop :=
  (∀ (x y : Reg) (s : State), ∃ t, exec (.orReg x y) s = .next t ∧
    (∀ k, (t.reg x).getLsbD k = ((s.reg x).getLsbD k || (s.reg y).getLsbD k)) ∧
    (∀ z, z ≠ x → t.reg z = s.reg z) ∧ t.pc = s.pc + 2 ∧ SameOutsideRegs s t) ∧
  (∀ (x y : Reg) (s : State), ∃ t, exec (.andReg x y) s = .next t ∧
    (∀ k, (t.reg x).getLsbD k = ((s.reg x).getLsbD k && (s.reg y).getLsbD k)) ∧
    (∀ z, z ≠ x → t.reg z = s.reg z) ∧ t.pc = s.pc + 2 ∧ SameOutsideRegs s t) ∧
  (∀ (x y : Reg) (s : State), ∃ t, exec (.xorReg x y) s = .next t ∧
    (∀ k, (t.reg x).getLsbD k = ((s.reg x).getLsbD k ^^ (s.reg y).getLsbD k)) ∧
    (∀ z, z ≠ x → t.reg z = s.reg z) ∧ t.pc = s.pc + 2 ∧ SameOutsideRegs s t)

/-- 8XY4: the sum modulo 256, VF the carry, written last so that with x = 0xF the sum is lost (R126). -/
def Obligations.AddSetsCarry : Prop :=
  ∀ (x y : Reg) (s : State), Encodes (.addReg x y) 0xF00F 0x8004 ∧ ∃ t, exec (.addReg x y) s = .next t ∧
    (x ≠ 15 → (t.reg x).toNat = ((s.reg x).toNat + (s.reg y).toNat) % 256) ∧
    (t.reg 15).toNat = (if (s.reg x).toNat + (s.reg y).toNat > 255 then 1 else 0) ∧
    (∀ z, z ≠ x → z ≠ 15 → t.reg z = s.reg z) ∧ t.pc = s.pc + 2 ∧ SameOutsideRegs s t

/-- 8XY5 and 8XY7: the difference modulo 256 and VF = no borrow, written last (R127, R129). -/
def Obligations.SubtractSetsNoBorrow : Prop :=
  (∀ (x y : Reg) (s : State), ∃ t, exec (.subReg x y) s = .next t ∧
    (x ≠ 15 → ((t.reg x).toNat : Int) = ((s.reg x).toNat - (s.reg y).toNat : Int) % 256) ∧
    (t.reg 15).toNat = (if (s.reg x).toNat ≥ (s.reg y).toNat then 1 else 0) ∧
    (∀ z, z ≠ x → z ≠ 15 → t.reg z = s.reg z) ∧ t.pc = s.pc + 2 ∧ SameOutsideRegs s t) ∧
  (∀ (x y : Reg) (s : State), ∃ t, exec (.subn x y) s = .next t ∧
    (x ≠ 15 → ((t.reg x).toNat : Int) = ((s.reg y).toNat - (s.reg x).toNat : Int) % 256) ∧
    (t.reg 15).toNat = (if (s.reg y).toNat ≥ (s.reg x).toNat then 1 else 0) ∧
    (∀ z, z ≠ x → z ≠ 15 → t.reg z = s.reg z) ∧ t.pc = s.pc + 2 ∧ SameOutsideRegs s t)

/-- 8XY6 and 8XYE shift Vx in place by one and leave the lost bit in VF, y being ignored (R128, R130; in place is the default
SHIFT_QUIRK, decision D12). -/
def Obligations.ShiftsInPlace : Prop :=
  (∀ (x y : Reg) (s : State), ∃ t, exec (.shr x y) s = .next t ∧
    (x ≠ 15 → (t.reg x).toNat = (s.reg x).toNat / 2) ∧ (t.reg 15).toNat = (s.reg x).toNat % 2 ∧
    (∀ z, z ≠ x → z ≠ 15 → t.reg z = s.reg z) ∧ t.pc = s.pc + 2 ∧ SameOutsideRegs s t) ∧
  (∀ (x y : Reg) (s : State), ∃ t, exec (.shl x y) s = .next t ∧
    (x ≠ 15 → (t.reg x).toNat = (s.reg x).toNat * 2 % 256) ∧ (t.reg 15).toNat = (s.reg x).toNat / 128 ∧
    (∀ z, z ≠ x → z ≠ 15 → t.reg z = s.reg z) ∧ t.pc = s.pc + 2 ∧ SameOutsideRegs s t)

/-- With SHIFT_QUIRK = legacy the shifts take their source from Vy (R133; the name of the variant is decision D12). -/
def Obligations.LegacyShiftsTakeVy : Prop :=
  ∀ (p : Config.Params) (r : Byte) (x y : Reg) (s : State), p.shiftQuirk = .legacy →
    (∃ t, execWith p r (.shr x y) s = .next t ∧ (x ≠ 15 → (t.reg x).toNat = (s.reg y).toNat / 2) ∧
      (t.reg 15).toNat = (s.reg y).toNat % 2 ∧ (∀ z, z ≠ x → z ≠ 15 → t.reg z = s.reg z) ∧
      t.pc = s.pc + 2 ∧ SameOutsideRegs s t) ∧
    (∃ t, execWith p r (.shl x y) s = .next t ∧ (x ≠ 15 → (t.reg x).toNat = (s.reg y).toNat * 2 % 256) ∧
      (t.reg 15).toNat = (s.reg y).toNat / 128 ∧ (∀ z, z ≠ x → z ≠ 15 → t.reg z = s.reg z) ∧
      t.pc = s.pc + 2 ∧ SameOutsideRegs s t)

/-- CXNN: the draw under the mask. With the draw an input it is `r AND nn`; in the machine, where the draw is a free value,
no bit outside the mask is set, and the count of draws (the model's own field, log entry 1) goes on by one (R131; D13). -/
def Obligations.RandomUnderMask : Prop :=
  ∀ (x : Reg) (nn : Byte) (s : State),
    (∃ t, exec (.rnd x nn) s = .next t ∧ t.reg x &&& ~~~nn = 0 ∧ (∀ z, z ≠ x → t.reg z = s.reg z) ∧
      t.pc = s.pc + 2 ∧ t.draws = s.draws + 1 ∧ SameOutsideRegs s { t with draws := s.draws }) ∧
    ∀ (p : Config.Params) (r : Byte), ∃ t, execWith p r (.rnd x nn) s = .next t ∧ t.reg x = r &&& nn

/-! ### Index register and memory (43_index_memory.md) -/

/-- ANNN writes NNN to I and nothing else (R140). -/
def Obligations.LoadIndex : Prop :=
  ∀ (nnn : BitVec 12) (s : State), Encodes (.ldI nnn) 0xF000 0xA000 ∧
    ∃ t, exec (.ldI nnn) s = .next t ∧ t.i.toNat = nnn.toNat ∧
    (∀ z, t.reg z = s.reg z) ∧ t.pc = s.pc + 2 ∧ SameOutsideRegs s { t with i := s.i }

/-- FX1E: the sum modulo 4096 in I, and VF 1 exactly when the sum leaves the address range, else 0, written last; with
I_WRAP_BITS = 16 the sum is kept modulo 65536 (R141; modulus and cleared flag are decisions D2 and D3). -/
def Obligations.AddToIndex : Prop :=
  ∀ (x : Reg) (s : State),
    (∃ t, exec (.addI x) s = .next t ∧ t.i.toNat = (s.i.toNat + (s.reg x).toNat) % 4096 ∧
      (t.reg 15).toNat = (if s.i.toNat + (s.reg x).toNat > 0xFFF then 1 else 0) ∧
      (∀ z, z ≠ 15 → t.reg z = s.reg z) ∧ t.pc = s.pc + 2 ∧ SameOutsideRegs s { t with i := s.i }) ∧
    ∀ (p : Config.Params) (r : Byte), p.indexWrap = .bits16 → ∃ t, execWith p r (.addI x) s = .next t ∧
      t.i.toNat = (s.i.toNat + (s.reg x).toNat) % 65536 ∧
      (t.reg 15).toNat = (if s.i.toNat + (s.reg x).toNat > 0xFFF then 1 else 0)

/-- FX29 points I at 0x050 + 5 * Vx, with no mask on Vx (R142; no mask is decision D19). -/
def Obligations.PointAtGlyph : Prop :=
  ∀ (x : Reg) (s : State), ∃ t, exec (.ldF x) s = .next t ∧ t.i.toNat = 0x050 + 5 * (s.reg x).toNat ∧
    (∀ z, t.reg z = s.reg z) ∧ t.pc = s.pc + 2 ∧ SameOutsideRegs s { t with i := s.i }

/-- FX33 stores hundreds, tens and ones at I, I + 1, I + 2 and changes no other byte (R143). -/
def Obligations.StoreDecimalDigits : Prop :=
  ∀ (x : Reg) (s : State), s.i.toNat + 3 ≤ 4096 → ∃ t, exec (.ldB x) s = .next t ∧
    (t.mem.readByte s.i.toNat).toNat = (s.reg x).toNat / 100 ∧
    (t.mem.readByte (s.i.toNat + 1)).toNat = (s.reg x).toNat / 10 % 10 ∧
    (t.mem.readByte (s.i.toNat + 2)).toNat = (s.reg x).toNat % 10 ∧
    (∀ a, a < s.i.toNat ∨ s.i.toNat + 3 ≤ a → t.mem.readByte a = s.mem.readByte a) ∧
    (∀ z, t.reg z = s.reg z) ∧ t.pc = s.pc + 2 ∧ SameOutsideRegs s { t with mem := s.mem }

/-- FX55 stores V0 to Vx at I to I + x, changes no other byte, and leaves I (R144; I unchanged is decision D20). -/
def Obligations.SpillStoresRegisters : Prop :=
  ∀ (x : Reg) (s : State), s.i.toNat + x.val + 1 ≤ 4096 → ∃ t, exec (.spill x) s = .next t ∧
    (∀ z, z ≤ x → t.mem.readByte (s.i.toNat + z.val) = s.reg z) ∧
    (∀ a, a < s.i.toNat ∨ s.i.toNat + x.val + 1 ≤ a → t.mem.readByte a = s.mem.readByte a) ∧
    (∀ z, t.reg z = s.reg z) ∧ t.pc = s.pc + 2 ∧ SameOutsideRegs s { t with mem := s.mem }

/-- FX65 loads V0 to Vx from I to I + x, leaves the registers above x, memory and I (R145; I unchanged is decision D20). -/
def Obligations.FillLoadsRegisters : Prop :=
  ∀ (x : Reg) (s : State), s.i.toNat + x.val + 1 ≤ 4096 → ∃ t, exec (.fill x) s = .next t ∧
    (∀ z, z ≤ x → t.reg z = s.mem.readByte (s.i.toNat + z.val)) ∧ (∀ z, x < z → t.reg z = s.reg z) ∧
    t.pc = s.pc + 2 ∧ SameOutsideRegs s t

/-- An access through I that would pass 0xFFF raises BoundsError with info = I and does nothing else: DXYN, FX33, FX55, FX65
(R191, R197; the void step and the record are D6, D7). -/
def Obligations.IndexedAccessBeyondMemoryHalts : Prop :=
  ∀ s : State,
    (∀ x y n, 4096 < s.i.toNat + n.toNat →
      exec (.drw x y n) s = .next { s with mode := .halted, fault := ⟨.bounds, s.pc, s.i⟩ }) ∧
    (∀ x, 4096 < s.i.toNat + 3 →
      exec (.ldB x) s = .next { s with mode := .halted, fault := ⟨.bounds, s.pc, s.i⟩ }) ∧
    (∀ x : Reg, 4096 < s.i.toNat + x.val + 1 →
      exec (.spill x) s = .next { s with mode := .halted, fault := ⟨.bounds, s.pc, s.i⟩ } ∧
      exec (.fill x) s = .next { s with mode := .halted, fault := ⟨.bounds, s.pc, s.i⟩ })

/-! ### Display (44_display.md) -/

/-- 00E0 turns every pixel off and sets DIRTY, and changes nothing else (R150). -/
def Obligations.ClearScreen : Prop :=
  ∀ s : State, Encodes .cls 0xFFFF 0x00E0 ∧ ∃ t, exec .cls s = .next t ∧ (∀ r c, t.pixel r c = false) ∧ t.dirty = true ∧
    (∀ z, t.reg z = s.reg z) ∧ t.pc = s.pc + 2 ∧ SameOutsideRegs s { t with fb := s.fb, dirty := s.dirty }

/-- DXYN flips exactly the pixels that a set sprite bit covers, coordinates wrapping, and leaves VF = 1 iff one of them was on;
n = 0 flips none (R151, R153; bit 7 leftmost is decision D10, wrapping D11). -/
def Obligations.DrawFlipsCoveredPixels : Prop :=
  ∀ (x y : Reg) (n : BitVec 4) (s : State), s.i.toNat + n.toNat ≤ 4096 → ∃ t, exec (.drw x y n) s = .next t ∧
    (∀ r c, SpriteCovers s x y n r c → t.pixel r c = !s.pixel r c) ∧
    (∀ r c, ¬ SpriteCovers s x y n r c → t.pixel r c = s.pixel r c) ∧
    ((∃ r c, SpriteCovers s x y n r c ∧ s.pixel r c = true) → t.reg 15 = 1) ∧
    (¬ (∃ r c, SpriteCovers s x y n r c ∧ s.pixel r c = true) → t.reg 15 = 0) ∧
    t.dirty = true ∧ (∀ z, z ≠ 15 → t.reg z = s.reg z) ∧ t.pc = s.pc + 2 ∧
    SameOutsideRegs s { t with fb := s.fb, dirty := s.dirty }

/-- Drawing the same sprite at the same place twice restores the picture, and the second draw reports a collision iff some set
sprite bit landed on a clear pixel in the first (R153, source property S8-6 as corrected by 90_conflicts.md C8). -/
def Obligations.DrawTwiceRestores : Prop :=
  ∀ (x y : Reg) (n : BitVec 4) (s t s' : State), s.i.toNat + n.toNat ≤ 4096 → exec (.drw x y n) s = .next t →
    s'.fb = t.fb → s'.i = s.i → (∀ a, s'.mem.readByte a = s.mem.readByte a) → s'.reg x = s.reg x → s'.reg y = s.reg y →
    ∃ u, exec (.drw x y n) s' = .next u ∧ (∀ r c, u.pixel r c = s.pixel r c) ∧
      (u.reg 15 = 1 ↔ ∃ r c, SpriteCovers s x y n r c ∧ s.pixel r c = false)

/-- With DRAW_EDGE = clip the pixels past the right and bottom edge are neither drawn nor tested (R152; the meaning of clip is
the spec's general knowledge, decision D11). -/
def Obligations.ClippedDrawDropsPixels : Prop :=
  ∀ (p : Config.Params) (b : Byte) (x y : Reg) (n : BitVec 4) (s : State), p.drawEdge = .clip →
    s.i.toNat + n.toNat ≤ 4096 → ∃ t, execWith p b (.drw x y n) s = .next t ∧
    (∀ r c, SpriteCoversClipped s x y n r c → t.pixel r c = !s.pixel r c) ∧
    (∀ r c, ¬ SpriteCoversClipped s x y n r c → t.pixel r c = s.pixel r c) ∧
    (t.reg 15 = 1 ↔ ∃ r c, SpriteCoversClipped s x y n r c ∧ s.pixel r c = true)

/-! ### Timers and keys (45_timers_keys.md) -/

/-- FX07 reads DT into Vx, FX15 writes Vx to DT, FX18 writes Vx to ST (R160 to R162). -/
def Obligations.TimerMoves : Prop :=
  ∀ (x : Reg) (s : State),
    Encodes (.ldVxDt x) 0xF0FF 0xF007 ∧ Encodes (.ldDtVx x) 0xF0FF 0xF015 ∧ Encodes (.ldStVx x) 0xF0FF 0xF018 ∧
    (∃ t, exec (.ldVxDt x) s = .next t ∧ t.reg x = s.dt ∧ (∀ z, z ≠ x → t.reg z = s.reg z) ∧ t.pc = s.pc + 2 ∧
      SameOutsideRegs s t) ∧
    (∃ t, exec (.ldDtVx x) s = .next t ∧ t.dt = s.reg x ∧ (∀ z, t.reg z = s.reg z) ∧ t.pc = s.pc + 2 ∧
      SameOutsideRegs s { t with dt := s.dt }) ∧
    (∃ t, exec (.ldStVx x) s = .next t ∧ t.st = s.reg x ∧ (∀ z, t.reg z = s.reg z) ∧ t.pc = s.pc + 2 ∧
      SameOutsideRegs s { t with st := s.st })

/-- Any number of Ticks of a running machine counts both timers down by that number, floored at 0, and changes nothing else
(R163, source vector S8-9). -/
def Obligations.TicksFloorAtZero : Prop :=
  ∀ (k : Nat) (s : State), s.mode = .running →
    (tickOp^[k] s).dt.toNat = s.dt.toNat - k ∧ (tickOp^[k] s).st.toNat = s.st.toNat - k ∧
    { tickOp^[k] s with dt := s.dt, st := s.st } = s

/-- EX9E, EXA1 and FX0A raise DecodeError with info the instruction word, whatever K and Vx hold (R164 to R166; the fault is
decision D8). -/
def Obligations.KeyOpcodesHalt : Prop :=
  ∀ (x : Reg) (s : State),
    exec (.skp x) s = .next { s with mode := .halted, fault := ⟨.decode, s.pc, BitVec.ofNat 16 (0xE09E + 256 * x.val)⟩ } ∧
    exec (.sknp x) s = .next { s with mode := .halted, fault := ⟨.decode, s.pc, BitVec.ofNat 16 (0xE0A1 + 256 * x.val)⟩ } ∧
    exec (.ldVxK x) s = .next { s with mode := .halted, fault := ⟨.decode, s.pc, BitVec.ofNat 16 (0xF00A + 256 * x.val)⟩ }

/-! ### Host operations and reset (46_host_operations.md, 70_reset_and_hazards.md) -/

/-- The reset state: PC 0x200, Running, no fault, memory zero but for the 80 font bytes, and V, I, the stack, the timers, the
picture, DIRTY and K zero, empty or off (R35; all but PC and memory are decisions D4, D6, D7, log entry 4). -/
def Obligations.ResetValues : Prop :=
  State.reset.pc = 0x200 ∧ State.reset.mode = .running ∧ State.reset.fault = ⟨.none, 0, 0⟩ ∧
    (∀ a, a < 0x050 ∨ 0x0A0 ≤ a → State.reset.mem.readByte a = 0) ∧
    (∀ k : Fin 80, State.reset.mem.readByte (0x050 + k.val) = hardware.font.get k) ∧
    (∀ z, State.reset.reg z = 0) ∧ State.reset.i = 0 ∧ State.reset.stack = [] ∧ State.reset.dt = 0 ∧
    State.reset.st = 0 ∧ (∀ r c, State.reset.pixel r c = false) ∧ State.reset.dirty = false ∧ State.reset.keys = 0

/-- Load places byte j of the image at 0x200 + j and changes nothing else; an image of more than 3584 bytes raises BoundsError
with fault_pc = info = 0x0200 and places nothing (R172, R191; the record is D6, D7). -/
def Obligations.LoadPlacesImage : Prop :=
  ∀ (bytes : List Byte) (s : State), s.mode = .running →
    (bytes.length ≤ 3584 →
      (∀ j b, bytes[j]? = some b → (loadOp bytes s).mem.readByte (0x200 + j) = b) ∧
      (∀ a, a < 0x200 ∨ 0x200 + bytes.length ≤ a → (loadOp bytes s).mem.readByte a = s.mem.readByte a) ∧
      { loadOp bytes s with mem := s.mem } = s) ∧
    (3584 < bytes.length → loadOp bytes s = { s with mode := .halted, fault := ⟨.bounds, 0x200, 0x200⟩ })

/-- In Halted every operation but Reset leaves the state as it is, at any parameters (R178, decision D16). -/
def Obligations.HaltedFreezesHostOperations : Prop :=
  ∀ (p : Config.Params) (op : HostOp) (s : State), s.mode = .halted → op ≠ .reset → hostOp p op s = .next s

/-- From a terminal loop, a running machine about to jump to itself, every further step leaves the entire state unchanged
(R180, decision D25). -/
def Obligations.TerminalLoopIsFinal : Prop := ∀ s : State, TerminalLoop s → step s = .next s
end

