-- ==== Sys2Proof/Laws/Decode.lean ====
section
/-! SUPPORT. The laws of the encoding: the fields of an encoded word, the masks of the opcode map on it, and words as two bytes. -/
namespace Sys2Proof

/-! ### The fields of an encoded word (R81) -/

theorem extract_high {w v : Nat} (a : BitVec w) (b : BitVec v) (k len : Nat) :
    (a ++ b).extractLsb' (v + k) len = a.extractLsb' k len := by
  ext j hj
  simp [BitVec.getLsbD_append, show v + k + j - v = k + j by omega, show ¬ v + k + j < v by omega]

theorem extract_low {w v : Nat} (a : BitVec w) (b : BitVec v) (k len : Nat) (h : k + len ≤ v) :
    (a ++ b).extractLsb' k len = b.extractLsb' k len := by
  ext j hj
  simp [BitVec.getLsbD_append, show k + j < v by omega]

theorem extract_all {w : Nat} (a : BitVec w) : a.extractLsb' 0 w = a := by ext; simp

theorem nibble0_formatA (op : BitVec 4) (nnn : BitVec 12) : nibble0 (formatA op nnn) = op :=
  (extract_high op nnn 0 4).trans (extract_all op)

theorem fieldNNN_formatA (op : BitVec 4) (nnn : BitVec 12) : fieldNNN (formatA op nnn) = nnn :=
  (extract_low op nnn 0 12 (by omega)).trans (extract_all nnn)

theorem nibble0_formatI (op : BitVec 4) (x : Reg) (nn : Byte) : nibble0 (formatI op x nn) = op :=
  ((extract_high (op ++ (BitVec.ofFin x : BitVec 4)) nn 4 4).trans
    (extract_high op (BitVec.ofFin x : BitVec 4) 0 4)).trans (extract_all op)

theorem fieldX_formatI (op : BitVec 4) (x : Reg) (nn : Byte) : fieldX (formatI op x nn) = x := by
  have h : nibble1 (formatI op x nn) = (BitVec.ofFin x : BitVec 4) :=
    ((extract_high (op ++ (BitVec.ofFin x : BitVec 4)) nn 0 4).trans
      (extract_low op (BitVec.ofFin x : BitVec 4) 0 4 (by omega))).trans (extract_all _)
  rw [fieldX, h]

theorem fieldNN_formatI (op : BitVec 4) (x : Reg) (nn : Byte) : fieldNN (formatI op x nn) = nn :=
  (extract_low (op ++ (BitVec.ofFin x : BitVec 4)) nn 0 8 (by omega)).trans (extract_all nn)

theorem nibble0_formatF (op : BitVec 4) (x : Reg) (ff : Byte) : nibble0 (formatF op x ff) = op := nibble0_formatI op x ff

theorem fieldX_formatF (op : BitVec 4) (x : Reg) (ff : Byte) : fieldX (formatF op x ff) = x := fieldX_formatI op x ff

theorem fieldNN_formatF (op : BitVec 4) (x : Reg) (ff : Byte) : fieldNN (formatF op x ff) = ff := fieldNN_formatI op x ff

theorem nibble0_formatR (op : BitVec 4) (x y : Reg) (f : BitVec 4) : nibble0 (formatR op x y f) = op :=
  (((extract_high (op ++ (BitVec.ofFin x : BitVec 4) ++ (BitVec.ofFin y : BitVec 4)) f 8 4).trans
    (extract_high (op ++ (BitVec.ofFin x : BitVec 4)) (BitVec.ofFin y : BitVec 4) 4 4)).trans
    (extract_high op (BitVec.ofFin x : BitVec 4) 0 4)).trans (extract_all op)

theorem fieldX_formatR (op : BitVec 4) (x y : Reg) (f : BitVec 4) : fieldX (formatR op x y f) = x := by
  have h : nibble1 (formatR op x y f) = (BitVec.ofFin x : BitVec 4) :=
    (((extract_high (op ++ (BitVec.ofFin x : BitVec 4) ++ (BitVec.ofFin y : BitVec 4)) f 4 4).trans
      (extract_high (op ++ (BitVec.ofFin x : BitVec 4)) (BitVec.ofFin y : BitVec 4) 0 4)).trans
      (extract_low op (BitVec.ofFin x : BitVec 4) 0 4 (by omega))).trans (extract_all _)
  rw [fieldX, h]

theorem fieldY_formatR (op : BitVec 4) (x y : Reg) (f : BitVec 4) : fieldY (formatR op x y f) = y := by
  have h : nibble2 (formatR op x y f) = (BitVec.ofFin y : BitVec 4) :=
    ((extract_high (op ++ (BitVec.ofFin x : BitVec 4) ++ (BitVec.ofFin y : BitVec 4)) f 0 4).trans
      (extract_low (op ++ (BitVec.ofFin x : BitVec 4)) (BitVec.ofFin y : BitVec 4) 0 4 (by omega))).trans (extract_all _)
  rw [fieldY, h]

theorem nibble3_formatR (op : BitVec 4) (x y : Reg) (f : BitVec 4) : nibble3 (formatR op x y f) = f :=
  (extract_low (op ++ (BitVec.ofFin x : BitVec 4) ++ (BitVec.ofFin y : BitVec 4)) f 0 4 (by omega)).trans (extract_all f)

theorem and_ones4 (a : BitVec 4) : a &&& 0xF#4 = a := BitVec.and_allOnes

theorem and_ones8 (a : BitVec 8) : a &&& 0xFF#8 = a := BitVec.and_allOnes

/-! ### The fields as numbers (R80, R81) -/

theorem toNat_nibble0 (w : Word) : (nibble0 w).toNat = w.toNat / 0x1000 := by
  have := w.isLt
  simp [nibble0, BitVec.extractLsb'_toNat, Nat.shiftRight_eq_div_pow]
  omega

theorem toNat_nibble3 (w : Word) : (nibble3 w).toNat = w.toNat % 16 := by
  simp [nibble3, BitVec.extractLsb'_toNat]

theorem toNat_fieldNN (w : Word) : (fieldNN w).toNat = w.toNat % 256 := by
  simp [fieldNN, BitVec.extractLsb'_toNat]

theorem toNat_wordOfBytes (hi lo : Byte) : (wordOfBytes hi lo).toNat = 256 * hi.toNat + lo.toNat := by
  have := lo.isLt
  simp only [wordOfBytes, BitVec.toNat_append]
  rw [← Nat.shiftLeft_add_eq_or_of_lt this]
  simp [Nat.shiftLeft_eq, Nat.mul_comm]

/-! ### A word is put together again from its fields (R80 to R82) -/

theorem wordA (w : Word) : w = formatA (nibble0 w) (fieldNNN w) :=
  ((BitVec.extractLsb'_append_extractLsb'_eq_extractLsb' (x := w) (start₂ := 12) (start₁ := 0) (len₁ := 12) (len₂ := 4) rfl).trans
    (extract_all w)).symm

theorem wordI (w : Word) : w = formatI (nibble0 w) (fieldX w) (fieldNN w) := by
  have h1 : nibble0 w ++ nibble1 w = w.extractLsb' 8 8 :=
    BitVec.extractLsb'_append_extractLsb'_eq_extractLsb' (x := w) (start₂ := 12) (start₁ := 8) (len₁ := 4) (len₂ := 4) rfl
  have h2 : w.extractLsb' 8 8 ++ fieldNN w = w.extractLsb' 0 16 :=
    BitVec.extractLsb'_append_extractLsb'_eq_extractLsb' (x := w) (start₂ := 8) (start₁ := 0) (len₁ := 8) (len₂ := 8) rfl
  show w = nibble0 w ++ nibble1 w ++ fieldNN w
  rw [h1, h2]; exact (extract_all w).symm

theorem wordR (w : Word) : w = formatR (nibble0 w) (fieldX w) (fieldY w) (nibble3 w) := by
  have h1 : nibble0 w ++ nibble1 w = w.extractLsb' 8 8 :=
    BitVec.extractLsb'_append_extractLsb'_eq_extractLsb' (x := w) (start₂ := 12) (start₁ := 8) (len₁ := 4) (len₂ := 4) rfl
  have h2 : w.extractLsb' 8 8 ++ nibble2 w = w.extractLsb' 4 12 :=
    BitVec.extractLsb'_append_extractLsb'_eq_extractLsb' (x := w) (start₂ := 8) (start₁ := 4) (len₁ := 4) (len₂ := 8) rfl
  have h3 : w.extractLsb' 4 12 ++ nibble3 w = w.extractLsb' 0 16 :=
    BitVec.extractLsb'_append_extractLsb'_eq_extractLsb' (x := w) (start₂ := 4) (start₁ := 0) (len₁ := 4) (len₂ := 12) rfl
  show w = nibble0 w ++ nibble1 w ++ nibble2 w ++ nibble3 w
  rw [h1, h2, h3]; exact (extract_all w).symm

/-! ### The masks of the opcode map on encoded words (R85) -/

theorem mask_formatA (op : BitVec 4) (nnn : BitVec 12) : formatA op nnn &&& 0xF000 = op ++ 0#12 := by
  have h : (0xF000 : Word) = 0xF#4 ++ 0#12 := by decide
  rw [h, formatA, BitVec.and_append]
  simp [and_ones4]

theorem mask_formatI (op : BitVec 4) (x : Reg) (nn : Byte) : formatI op x nn &&& 0xF000 = op ++ 0#4 ++ 0#8 := by
  have h : (0xF000 : Word) = 0xF#4 ++ 0#4 ++ 0#8 := by decide
  rw [h, formatI, BitVec.and_append, BitVec.and_append]
  simp [and_ones4]

theorem mask_formatF (op : BitVec 4) (x : Reg) (ff : Byte) : formatF op x ff &&& 0xF0FF = op ++ 0#4 ++ ff := by
  have h : (0xF0FF : Word) = 0xF#4 ++ 0#4 ++ 0xFF#8 := by decide
  rw [h, formatF, BitVec.and_append, BitVec.and_append]
  simp [and_ones4, and_ones8]

theorem mask_formatR (op : BitVec 4) (x y : Reg) (f : BitVec 4) :
    formatR op x y f &&& 0xF00F = op ++ 0#4 ++ 0#4 ++ f := by
  have h : (0xF00F : Word) = 0xF#4 ++ 0#4 ++ 0#4 ++ 0xF#4 := by decide
  rw [h, formatR, BitVec.and_append, BitVec.and_append, BitVec.and_append]
  simp [and_ones4]

theorem mask_formatR_top (op : BitVec 4) (x y : Reg) (f : BitVec 4) :
    formatR op x y f &&& 0xF000 = op ++ 0#4 ++ 0#4 ++ 0#4 := by
  have h : (0xF000 : Word) = 0xF#4 ++ 0#4 ++ 0#4 ++ 0#4 := by decide
  rw [h, formatR, BitVec.and_append, BitVec.and_append, BitVec.and_append]
  simp [and_ones4]

/-! ### Words and bytes (R57) -/

theorem highByte_wordOfBytes (hi lo : Byte) : highByte (wordOfBytes hi lo) = hi :=
  (extract_high hi lo 0 8).trans (extract_all hi)

theorem lowByte_wordOfBytes (hi lo : Byte) : lowByte (wordOfBytes hi lo) = lo :=
  (extract_low hi lo 0 8 (by omega)).trans (extract_all lo)

theorem wordOfBytes_bytes (w : Word) : wordOfBytes (highByte w) (lowByte w) = w := by
  exact (BitVec.extractLsb'_append_extractLsb'_eq_extractLsb' (start₂ := 8) (start₁ := 0) (len₁ := 8) (len₂ := 8) rfl).trans
    (extract_all w)

end Sys2Proof
end

