-- ==== Sys2Proof/Laws/Display.lean ====
section
/-! SUPPORT. The laws of drawing: which columns a sprite byte covers, which rows a sprite reaches, and the collision flag. -/
namespace Sys2Proof
namespace Machine

/-! ### Sprite masks (R152, R154) -/

/-- Which columns a wrapped sprite byte covers: column `c` takes the byte's bit at distance `(c - col) mod 64` from its left
end, and none past the eighth. -/
theorem getMsbD_spriteMask_wrap (col : Nat) (b : Byte) (c : Nat) (hcol : col < 64) (hc : c < 64) :
    (spriteMask .wrap col b).getMsbD c = b.getMsbD ((c + 64 - col) % 64) := by
  simp only [spriteMask, BitVec.getMsbD_rotateRight, Nat.mod_eq_of_lt hcol]
  by_cases h : c < col
  · have e : (64 + c - col) % 64 = 64 + c - col := Nat.mod_eq_of_lt (by omega)
    have e' : (c + 64 - col) % 64 = 64 + c - col := by omega
    simp only [hc, h, e, e', decide_true, Bool.true_and, if_true, BitVec.getMsbD, BitVec.getLsbD_shiftLeft, BitVec.getLsbD_setWidth]
    by_cases h8 : 64 + c - col < 8
    · simp [h8, show 64 + c - col < 64 by omega, show ¬ 63 - (64 + c - col) < 56 by omega,
        show 63 - (64 + c - col) - 56 = 7 - (64 + c - col) by omega, show 63 - (64 + c - col) < 64 by omega,
        show 7 - (64 + c - col) < 64 by omega]
    · simp [h8, show 63 - (64 + c - col) < 56 by omega]
  · have e' : (c + 64 - col) % 64 = c - col := by omega
    simp only [hc, h, e', decide_true, Bool.true_and, if_false, BitVec.getMsbD, BitVec.getLsbD_shiftLeft, BitVec.getLsbD_setWidth]
    by_cases h8 : c - col < 8
    · simp [h8, show c - col < 64 by omega, show ¬ 63 - (c - col) < 56 by omega,
        show 63 - (c - col) - 56 = 7 - (c - col) by omega, show 63 - (c - col) < 64 by omega,
        show 7 - (c - col) < 64 by omega]
    · simp [h8, show 63 - (c - col) < 56 by omega]

/-- Which columns a clipped sprite byte covers. -/
theorem getMsbD_spriteMask_clip (col : Nat) (b : Byte) (c : Nat) (hc : c < 64) :
    (spriteMask .clip col b).getMsbD c = (decide (col ≤ c) && b.getMsbD (c - col)) := by
  simp only [spriteMask, BitVec.getMsbD_ushiftRight]
  by_cases h : c < col
  · simp [h, show ¬ col ≤ c by omega]
  · simp only [hc, h, show col ≤ c by omega, decide_true, decide_false, Bool.not_false, Bool.true_and, BitVec.getMsbD, BitVec.getLsbD_shiftLeft, BitVec.getLsbD_setWidth]
    by_cases h8 : c - col < 8
    · simp [h8, show c - col < 64 by omega, show ¬ 63 - (c - col) < 56 by omega,
        show 63 - (c - col) - 56 = 7 - (c - col) by omega, show 63 - (c - col) < 64 by omega,
        show 7 - (c - col) < 64 by omega]
    · simp [h8, show 63 - (c - col) < 56 by omega]

/-! ### The rows a sprite reaches (R151, R152) -/

/-- At most 32 sprite rows from `k` on fall on distinct framebuffer rows, so row `r` takes exactly the byte that lands on it. -/
theorem get_drawRows_wrap (row col k : Nat) (bs : List Byte) (fb : Vector (BitVec 64) 32) (r : Fin 32)
    (hrow : row < 32) (hk : k + bs.length ≤ 32) :
    (drawRows .wrap row col k bs fb).get r =
      if k ≤ (r.val + 32 - row) % 32 then
        match bs[(r.val + 32 - row) % 32 - k]? with
        | some b => fb.get r ^^^ spriteMask .wrap col b
        | none => fb.get r
      else fb.get r := by
  induction bs generalizing k fb with
  | nil => simp [drawRows]
  | cons b bs ih =>
    simp only [List.length_cons] at hk
    rw [drawRows]
    simp only [targetRow]
    rw [ih (k + 1) _ (by omega)]
    simp only [Vector.get_eq_getElem, Vector.getElem_set, Fin.ofNat]
    by_cases h1 : (row + k) % 32 = r.val
    · have e : (r.val + 32 - row) % 32 = k := by omega
      simp [h1, e]
    · have e : (r.val + 32 - row) % 32 ≠ k := by omega
      by_cases h2 : k ≤ (r.val + 32 - row) % 32
      · simp [h1, h2, show k + 1 ≤ (r.val + 32 - row) % 32 by omega,
          show (r.val + 32 - row) % 32 - k = ((r.val + 32 - row) % 32 - (k + 1)) + 1 by omega]
      · simp [h1, h2, show ¬ k + 1 ≤ (r.val + 32 - row) % 32 by omega]

/-- With clipping, the sprite rows from `k` on fall on the rows from `row + k` on, and those past the last row on none. -/
theorem get_drawRows_clip (row col k : Nat) (bs : List Byte) (fb : Vector (BitVec 64) 32) (r : Fin 32) :
    (drawRows .clip row col k bs fb).get r =
      if row + k ≤ r.val then
        match bs[r.val - (row + k)]? with
        | some b => fb.get r ^^^ spriteMask .clip col b
        | none => fb.get r
      else fb.get r := by
  induction bs generalizing k fb with
  | nil => simp [drawRows]
  | cons b bs ih =>
    rw [drawRows]
    simp only [targetRow]
    by_cases hlt : row + k < 32
    · simp only [hlt, dif_pos]
      rw [ih (k + 1)]
      simp only [Vector.get_eq_getElem, Vector.getElem_set]
      by_cases h1 : row + k = r.val
      · simp [h1, show ¬ row + (k + 1) ≤ r.val by omega]
      · by_cases h2 : row + k ≤ r.val
        · simp [h1, h2, show row + (k + 1) ≤ r.val by omega,
            show r.val - (row + k) = (r.val - (row + (k + 1))) + 1 by omega]
        · simp [h1, h2, show ¬ row + (k + 1) ≤ r.val by omega]
    · have hr := r.isLt
      simp only [hlt, dif_neg, not_false_eq_true]
      rw [ih (k + 1)]
      simp [show ¬ row + (k + 1) ≤ r.val by omega, show ¬ row + k ≤ r.val by omega]

/-- The collision flag is on iff some sprite row from `k` on meets a set pixel of the row it lands on (R153). -/
theorem collides_iff (e : Config.DrawEdge) (row col k : Nat) (bs : List Byte) (fb : Vector (BitVec 64) 32) :
    collides e row col k bs fb = true ↔
      ∃ j b r, bs[j]? = some b ∧ targetRow e row (k + j) = some r ∧ fb.get r &&& spriteMask e col b ≠ 0 := by
  induction bs generalizing k with
  | nil => simp [collides]
  | cons b bs ih =>
    rw [collides, Bool.or_eq_true, ih]
    constructor
    · rintro (h | ⟨j, b', r, hb, hr, hne⟩)
      · split at h
        · next r hr => exact ⟨0, b, r, by simp, hr, by simpa using h⟩
        · simp at h
      · exact ⟨j + 1, b', r, by simpa using hb, by rw [show k + (j + 1) = k + 1 + j by omega]; exact hr, hne⟩
    · rintro ⟨j, b', r, hb, hr, hne⟩
      cases j with
      | zero =>
        simp only [List.getElem?_cons_zero, Option.some.injEq] at hb
        subst hb
        simp only [Nat.add_zero] at hr
        left; simpa [hr] using hne
      | succ j =>
        exact .inr ⟨j, b', r, by simpa using hb, by rw [show k + 1 + j = k + (j + 1) by omega]; exact hr, hne⟩

end Machine
end Sys2Proof
end

