-- ==== Sys2Proof/Laws/Memory.lean ====
section
/-! SUPPORT. The laws of memory: what a write does to every read, that the operations keep the canonical form, and everything a
range access can answer (20_memory.md R53 to R55). -/

namespace Sys2Proof
namespace Machine

/-! ### One byte -/

theorem Memory.readByte_insertCell_same (m : Memory) (a : Nat) (b : Byte) (h : ∀ c ∈ m, c.1 ≠ a) :
    (m.insertCell a b).readByte a = b := by
  induction m with
  | nil => simp [insertCell, readByte]
  | cons c rest ih =>
    have hc : c.1 ≠ a := h c (by simp)
    simp only [insertCell]
    split
    · simp [readByte]
    · simp [readByte, hc, ih (fun d hd => h d (by simp [hd]))]

theorem Memory.readByte_insertCell_other (m : Memory) (a a' : Nat) (b : Byte) (h : a' ≠ a) :
    (m.insertCell a b).readByte a' = m.readByte a' := by
  induction m with
  | nil => simp [insertCell, readByte, h.symm]
  | cons c rest ih =>
    simp only [insertCell]
    split
    · simp [readByte, h.symm]
    · simp [readByte, ih]

theorem Memory.readByte_eraseCell (m : Memory) (a a' : Nat) :
    (m.eraseCell a).readByte a' = if a' = a then background a' else m.readByte a' := by
  induction m with
  | nil => simp [eraseCell, readByte]
  | cons c rest ih =>
    simp only [eraseCell, List.filter_cons] at ih ⊢
    by_cases hc : c.1 = a
    · by_cases ha : a' = a
      · simpa [hc, ha] using ih
      · have : c.1 ≠ a' := fun e => ha (e.symm.trans hc)
        simpa [hc, ha, readByte, this, Ne.symm ha] using ih
    · by_cases ha : a' = a
      · subst ha; simp [hc, readByte, ih]
      · simp [hc, readByte, ih, ha]

theorem Memory.not_mem_eraseCell (m : Memory) (a : Nat) : ∀ c ∈ m.eraseCell a, c.1 ≠ a := by
  simp [eraseCell]

/-- Everything a byte write does to the reads: the written address gives the byte, every other address what it gave (R54). -/
theorem Memory.readByte_writeByte (m : Memory) (a a' : Nat) (b : Byte) :
    (m.writeByte a b).readByte a' = if a' = a then b else m.readByte a' := by
  unfold writeByte
  by_cases ha : a' = a
  · subst ha
    split
    · simp_all [readByte_eraseCell]
    · simp [readByte_insertCell_same _ _ _ (not_mem_eraseCell m a')]
  · split <;> simp [ha, readByte_eraseCell, readByte_insertCell_other]

/-! ### The canonical form -/

theorem Memory.risingFrom_mono {lo lo' : Nat} {m : Memory} (h : lo' ≤ lo) (hm : risingFrom lo m = true) :
    risingFrom lo' m = true := by
  cases m with
  | nil => rfl
  | cons c rest => simp [risingFrom] at hm ⊢; exact ⟨by omega, hm.2⟩

theorem Memory.risingFrom_eraseCell {lo : Nat} {m : Memory} (a : Nat) (h : risingFrom lo m = true) :
    risingFrom lo (m.eraseCell a) = true := by
  induction m generalizing lo with
  | nil => rfl
  | cons c rest ih =>
    simp only [risingFrom, Bool.and_eq_true, decide_eq_true_eq] at h
    simp only [eraseCell, List.filter_cons] at ih ⊢
    split
    · simpa [risingFrom, h.1] using ih h.2
    · exact risingFrom_mono (by omega) (ih h.2)

theorem Memory.risingFrom_insertCell {lo : Nat} {m : Memory} {a : Nat} (b : Byte) (h : risingFrom lo m = true)
    (hlo : lo ≤ a) (hm : ∀ c ∈ m, c.1 ≠ a) : risingFrom lo (m.insertCell a b) = true := by
  induction m generalizing lo with
  | nil => simpa [insertCell, risingFrom] using hlo
  | cons c rest ih =>
    have hc : c.1 ≠ a := hm c (by simp)
    simp only [risingFrom, Bool.and_eq_true, decide_eq_true_eq] at h
    simp only [insertCell]
    split
    · simp [risingFrom, hlo, h.2]; omega
    · simp [risingFrom, h.1, ih h.2 (by omega) (fun d hd => hm d (by simp [hd]))]

theorem Memory.mem_insertCell {m : Memory} {a : Nat} {b : Byte} {c : Host.Cell} :
    c ∈ m.insertCell a b ↔ c = (a, b) ∨ c ∈ m := by
  induction m with
  | nil => simp [insertCell]
  | cons d rest ih =>
    simp only [insertCell]
    split
    · simp
    · simp [ih]; tauto

theorem Memory.wf_iff {m : Memory} : m.wf = true ↔ risingFrom 0 m = true ∧ ∀ c ∈ m, cellOk c = true := by
  simp [wf]

/-- A byte write inside the address space keeps the canonical form. -/
theorem Memory.wf_writeByte {m : Memory} {a : Nat} (b : Byte) (h : m.wf = true) (ha : a < Config.memSize) :
    (m.writeByte a b).wf = true := by
  rw [wf_iff] at h ⊢
  have herase : ∀ c ∈ m.eraseCell a, cellOk c = true := fun c hc => h.2 c (List.mem_of_mem_filter hc)
  unfold writeByte
  split
  · exact ⟨risingFrom_eraseCell a h.1, herase⟩
  · next hb =>
    refine ⟨risingFrom_insertCell b (risingFrom_eraseCell a h.1) (Nat.zero_le a) (not_mem_eraseCell m a), ?_⟩
    intro c hc
    rcases mem_insertCell.1 hc with rfl | hc
    · simp [cellOk, hb, ha]
    · exact herase c hc

/-! ### Runs of bytes -/

/-- Everything a run of byte writes does to the reads (R55). -/
theorem Memory.readByte_writeBytes (m : Memory) (a a' : Nat) (bs : List Byte) :
    (m.writeBytes a bs).readByte a' = if a ≤ a' then (bs[a' - a]?).getD (m.readByte a') else m.readByte a' := by
  induction bs generalizing m a with
  | nil => simp [writeBytes]
  | cons b bs ih =>
    rw [writeBytes, ih, readByte_writeByte]
    by_cases h1 : a' = a
    · subst h1; simp
    · by_cases h2 : a ≤ a'
      · have : a' - a = (a' - (a + 1)) + 1 := by omega
        simp [h1, h2, show a + 1 ≤ a' by omega, this]
      · simp [h1, h2, show ¬ a + 1 ≤ a' by omega]

theorem Memory.wf_writeBytes {m : Memory} {a : Nat} {bs : List Byte} (h : m.wf = true)
    (ha : a + bs.length ≤ Config.memSize) : (m.writeBytes a bs).wf = true := by
  induction bs generalizing m a with
  | nil => exact h
  | cons b bs ih =>
    simp only [List.length_cons] at ha
    exact ih (wf_writeByte b h (by omega)) (by omega)

/-- Everything MemWriteRange can do: refuse a range that leaves memory, or write it all, keeping the canonical form (R55). -/
theorem Memory.writeRange_some {m m' : Memory} {a : Nat} {bs : List Byte} (h : m.writeRange a bs = some m') :
    a + bs.length ≤ Config.memSize ∧ m' = m.writeBytes a bs ∧ (m.wf = true → m'.wf = true) := by
  unfold writeRange at h
  split at h
  · next hle => cases h; exact ⟨hle, rfl, fun hm => wf_writeBytes hm hle⟩
  · cases h

theorem Memory.writeRange_none {m : Memory} {a : Nat} {bs : List Byte} :
    m.writeRange a bs = none ↔ Config.memSize < a + bs.length := by
  unfold writeRange; split <;> simp <;> omega

@[simp] theorem Memory.length_readBytes (m : Memory) (a len : Nat) : (m.readBytes a len).length = len := by
  simp [readBytes]

theorem Memory.getElem?_readBytes (m : Memory) (a len k : Nat) :
    (m.readBytes a len)[k]? = if k < len then some (m.readByte (a + k)) else none := by
  simp only [readBytes, List.getElem?_map]
  split <;> simp_all

/-- Everything MemReadRange can do: refuse a range that leaves memory, or give its bytes (R55). -/
theorem Memory.readRange_some {m : Memory} {a len : Nat} {bs : List Byte} (h : m.readRange a len = some bs) :
    a + len ≤ Config.memSize ∧ bs = m.readBytes a len := by
  unfold readRange at h
  split at h
  · next hle => cases h; exact ⟨hle, rfl⟩
  · cases h

theorem Memory.readRange_none {m : Memory} {a len : Nat} :
    m.readRange a len = none ↔ Config.memSize < a + len := by
  unfold readRange; split <;> simp <;> omega

end Machine
end Sys2Proof
end

