-- ==== Sys2Proof/Laws/State.lean ====
section
/-! SUPPORT. One lemma per field per update of State, each true by rfl, so that no proof unfolds a record update. -/

namespace Sys2Proof
namespace Machine

/-! ### halt -/
@[simp] theorem State.v_halt (s : State) (c : Cause) (p w : Word) : (s.halt c p w).v = s.v := rfl
@[simp] theorem State.i_halt (s : State) (c : Cause) (p w : Word) : (s.halt c p w).i = s.i := rfl
@[simp] theorem State.pc_halt (s : State) (c : Cause) (p w : Word) : (s.halt c p w).pc = s.pc := rfl
@[simp] theorem State.stack_halt (s : State) (c : Cause) (p w : Word) : (s.halt c p w).stack = s.stack := rfl
@[simp] theorem State.dt_halt (s : State) (c : Cause) (p w : Word) : (s.halt c p w).dt = s.dt := rfl
@[simp] theorem State.st_halt (s : State) (c : Cause) (p w : Word) : (s.halt c p w).st = s.st := rfl
@[simp] theorem State.fb_halt (s : State) (c : Cause) (p w : Word) : (s.halt c p w).fb = s.fb := rfl
@[simp] theorem State.dirty_halt (s : State) (c : Cause) (p w : Word) : (s.halt c p w).dirty = s.dirty := rfl
@[simp] theorem State.keys_halt (s : State) (c : Cause) (p w : Word) : (s.halt c p w).keys = s.keys := rfl
@[simp] theorem State.mode_halt (s : State) (c : Cause) (p w : Word) : (s.halt c p w).mode = .halted := rfl
@[simp] theorem State.fault_halt (s : State) (c : Cause) (p w : Word) : (s.halt c p w).fault = ⟨c, p, w⟩ := rfl
@[simp] theorem State.mem_halt (s : State) (c : Cause) (p w : Word) : (s.halt c p w).mem = s.mem := rfl
@[simp] theorem State.draws_halt (s : State) (c : Cause) (p w : Word) : (s.halt c p w).draws = s.draws := rfl

/-! ### advance -/
@[simp] theorem State.v_advance (s : State) : (s.advance).v = s.v := rfl
@[simp] theorem State.i_advance (s : State) : (s.advance).i = s.i := rfl
@[simp] theorem State.pc_advance (s : State) : (s.advance).pc = s.pc + 2 := rfl
@[simp] theorem State.stack_advance (s : State) : (s.advance).stack = s.stack := rfl
@[simp] theorem State.dt_advance (s : State) : (s.advance).dt = s.dt := rfl
@[simp] theorem State.st_advance (s : State) : (s.advance).st = s.st := rfl
@[simp] theorem State.fb_advance (s : State) : (s.advance).fb = s.fb := rfl
@[simp] theorem State.dirty_advance (s : State) : (s.advance).dirty = s.dirty := rfl
@[simp] theorem State.keys_advance (s : State) : (s.advance).keys = s.keys := rfl
@[simp] theorem State.mode_advance (s : State) : (s.advance).mode = s.mode := rfl
@[simp] theorem State.fault_advance (s : State) : (s.advance).fault = s.fault := rfl
@[simp] theorem State.mem_advance (s : State) : (s.advance).mem = s.mem := rfl
@[simp] theorem State.draws_advance (s : State) : (s.advance).draws = s.draws := rfl

/-! ### setPc -/
@[simp] theorem State.v_setPc (s : State) (a : Word) : (s.setPc a).v = s.v := rfl
@[simp] theorem State.i_setPc (s : State) (a : Word) : (s.setPc a).i = s.i := rfl
@[simp] theorem State.pc_setPc (s : State) (a : Word) : (s.setPc a).pc = a := rfl
@[simp] theorem State.stack_setPc (s : State) (a : Word) : (s.setPc a).stack = s.stack := rfl
@[simp] theorem State.dt_setPc (s : State) (a : Word) : (s.setPc a).dt = s.dt := rfl
@[simp] theorem State.st_setPc (s : State) (a : Word) : (s.setPc a).st = s.st := rfl
@[simp] theorem State.fb_setPc (s : State) (a : Word) : (s.setPc a).fb = s.fb := rfl
@[simp] theorem State.dirty_setPc (s : State) (a : Word) : (s.setPc a).dirty = s.dirty := rfl
@[simp] theorem State.keys_setPc (s : State) (a : Word) : (s.setPc a).keys = s.keys := rfl
@[simp] theorem State.mode_setPc (s : State) (a : Word) : (s.setPc a).mode = s.mode := rfl
@[simp] theorem State.fault_setPc (s : State) (a : Word) : (s.setPc a).fault = s.fault := rfl
@[simp] theorem State.mem_setPc (s : State) (a : Word) : (s.setPc a).mem = s.mem := rfl
@[simp] theorem State.draws_setPc (s : State) (a : Word) : (s.setPc a).draws = s.draws := rfl

/-! ### setStack -/
@[simp] theorem State.v_setStack (s : State) (l : List Word) : (s.setStack l).v = s.v := rfl
@[simp] theorem State.i_setStack (s : State) (l : List Word) : (s.setStack l).i = s.i := rfl
@[simp] theorem State.pc_setStack (s : State) (l : List Word) : (s.setStack l).pc = s.pc := rfl
@[simp] theorem State.stack_setStack (s : State) (l : List Word) : (s.setStack l).stack = l := rfl
@[simp] theorem State.dt_setStack (s : State) (l : List Word) : (s.setStack l).dt = s.dt := rfl
@[simp] theorem State.st_setStack (s : State) (l : List Word) : (s.setStack l).st = s.st := rfl
@[simp] theorem State.fb_setStack (s : State) (l : List Word) : (s.setStack l).fb = s.fb := rfl
@[simp] theorem State.dirty_setStack (s : State) (l : List Word) : (s.setStack l).dirty = s.dirty := rfl
@[simp] theorem State.keys_setStack (s : State) (l : List Word) : (s.setStack l).keys = s.keys := rfl
@[simp] theorem State.mode_setStack (s : State) (l : List Word) : (s.setStack l).mode = s.mode := rfl
@[simp] theorem State.fault_setStack (s : State) (l : List Word) : (s.setStack l).fault = s.fault := rfl
@[simp] theorem State.mem_setStack (s : State) (l : List Word) : (s.setStack l).mem = s.mem := rfl
@[simp] theorem State.draws_setStack (s : State) (l : List Word) : (s.setStack l).draws = s.draws := rfl

/-! ### setI -/
@[simp] theorem State.v_setI (s : State) (a : Word) : (s.setI a).v = s.v := rfl
@[simp] theorem State.i_setI (s : State) (a : Word) : (s.setI a).i = a := rfl
@[simp] theorem State.pc_setI (s : State) (a : Word) : (s.setI a).pc = s.pc := rfl
@[simp] theorem State.stack_setI (s : State) (a : Word) : (s.setI a).stack = s.stack := rfl
@[simp] theorem State.dt_setI (s : State) (a : Word) : (s.setI a).dt = s.dt := rfl
@[simp] theorem State.st_setI (s : State) (a : Word) : (s.setI a).st = s.st := rfl
@[simp] theorem State.fb_setI (s : State) (a : Word) : (s.setI a).fb = s.fb := rfl
@[simp] theorem State.dirty_setI (s : State) (a : Word) : (s.setI a).dirty = s.dirty := rfl
@[simp] theorem State.keys_setI (s : State) (a : Word) : (s.setI a).keys = s.keys := rfl
@[simp] theorem State.mode_setI (s : State) (a : Word) : (s.setI a).mode = s.mode := rfl
@[simp] theorem State.fault_setI (s : State) (a : Word) : (s.setI a).fault = s.fault := rfl
@[simp] theorem State.mem_setI (s : State) (a : Word) : (s.setI a).mem = s.mem := rfl
@[simp] theorem State.draws_setI (s : State) (a : Word) : (s.setI a).draws = s.draws := rfl

/-! ### setDt -/
@[simp] theorem State.v_setDt (s : State) (b : Byte) : (s.setDt b).v = s.v := rfl
@[simp] theorem State.i_setDt (s : State) (b : Byte) : (s.setDt b).i = s.i := rfl
@[simp] theorem State.pc_setDt (s : State) (b : Byte) : (s.setDt b).pc = s.pc := rfl
@[simp] theorem State.stack_setDt (s : State) (b : Byte) : (s.setDt b).stack = s.stack := rfl
@[simp] theorem State.dt_setDt (s : State) (b : Byte) : (s.setDt b).dt = b := rfl
@[simp] theorem State.st_setDt (s : State) (b : Byte) : (s.setDt b).st = s.st := rfl
@[simp] theorem State.fb_setDt (s : State) (b : Byte) : (s.setDt b).fb = s.fb := rfl
@[simp] theorem State.dirty_setDt (s : State) (b : Byte) : (s.setDt b).dirty = s.dirty := rfl
@[simp] theorem State.keys_setDt (s : State) (b : Byte) : (s.setDt b).keys = s.keys := rfl
@[simp] theorem State.mode_setDt (s : State) (b : Byte) : (s.setDt b).mode = s.mode := rfl
@[simp] theorem State.fault_setDt (s : State) (b : Byte) : (s.setDt b).fault = s.fault := rfl
@[simp] theorem State.mem_setDt (s : State) (b : Byte) : (s.setDt b).mem = s.mem := rfl
@[simp] theorem State.draws_setDt (s : State) (b : Byte) : (s.setDt b).draws = s.draws := rfl

/-! ### setSt -/
@[simp] theorem State.v_setSt (s : State) (b : Byte) : (s.setSt b).v = s.v := rfl
@[simp] theorem State.i_setSt (s : State) (b : Byte) : (s.setSt b).i = s.i := rfl
@[simp] theorem State.pc_setSt (s : State) (b : Byte) : (s.setSt b).pc = s.pc := rfl
@[simp] theorem State.stack_setSt (s : State) (b : Byte) : (s.setSt b).stack = s.stack := rfl
@[simp] theorem State.dt_setSt (s : State) (b : Byte) : (s.setSt b).dt = s.dt := rfl
@[simp] theorem State.st_setSt (s : State) (b : Byte) : (s.setSt b).st = b := rfl
@[simp] theorem State.fb_setSt (s : State) (b : Byte) : (s.setSt b).fb = s.fb := rfl
@[simp] theorem State.dirty_setSt (s : State) (b : Byte) : (s.setSt b).dirty = s.dirty := rfl
@[simp] theorem State.keys_setSt (s : State) (b : Byte) : (s.setSt b).keys = s.keys := rfl
@[simp] theorem State.mode_setSt (s : State) (b : Byte) : (s.setSt b).mode = s.mode := rfl
@[simp] theorem State.fault_setSt (s : State) (b : Byte) : (s.setSt b).fault = s.fault := rfl
@[simp] theorem State.mem_setSt (s : State) (b : Byte) : (s.setSt b).mem = s.mem := rfl
@[simp] theorem State.draws_setSt (s : State) (b : Byte) : (s.setSt b).draws = s.draws := rfl

/-! ### setMem -/
@[simp] theorem State.v_setMem (s : State) (m : Memory) : (s.setMem m).v = s.v := rfl
@[simp] theorem State.i_setMem (s : State) (m : Memory) : (s.setMem m).i = s.i := rfl
@[simp] theorem State.pc_setMem (s : State) (m : Memory) : (s.setMem m).pc = s.pc := rfl
@[simp] theorem State.stack_setMem (s : State) (m : Memory) : (s.setMem m).stack = s.stack := rfl
@[simp] theorem State.dt_setMem (s : State) (m : Memory) : (s.setMem m).dt = s.dt := rfl
@[simp] theorem State.st_setMem (s : State) (m : Memory) : (s.setMem m).st = s.st := rfl
@[simp] theorem State.fb_setMem (s : State) (m : Memory) : (s.setMem m).fb = s.fb := rfl
@[simp] theorem State.dirty_setMem (s : State) (m : Memory) : (s.setMem m).dirty = s.dirty := rfl
@[simp] theorem State.keys_setMem (s : State) (m : Memory) : (s.setMem m).keys = s.keys := rfl
@[simp] theorem State.mode_setMem (s : State) (m : Memory) : (s.setMem m).mode = s.mode := rfl
@[simp] theorem State.fault_setMem (s : State) (m : Memory) : (s.setMem m).fault = s.fault := rfl
@[simp] theorem State.mem_setMem (s : State) (m : Memory) : (s.setMem m).mem = m := rfl
@[simp] theorem State.draws_setMem (s : State) (m : Memory) : (s.setMem m).draws = s.draws := rfl

/-! ### setFb -/
@[simp] theorem State.v_setFb (s : State) (f : Vector (BitVec 64) 32) : (s.setFb f).v = s.v := rfl
@[simp] theorem State.i_setFb (s : State) (f : Vector (BitVec 64) 32) : (s.setFb f).i = s.i := rfl
@[simp] theorem State.pc_setFb (s : State) (f : Vector (BitVec 64) 32) : (s.setFb f).pc = s.pc := rfl
@[simp] theorem State.stack_setFb (s : State) (f : Vector (BitVec 64) 32) : (s.setFb f).stack = s.stack := rfl
@[simp] theorem State.dt_setFb (s : State) (f : Vector (BitVec 64) 32) : (s.setFb f).dt = s.dt := rfl
@[simp] theorem State.st_setFb (s : State) (f : Vector (BitVec 64) 32) : (s.setFb f).st = s.st := rfl
@[simp] theorem State.fb_setFb (s : State) (f : Vector (BitVec 64) 32) : (s.setFb f).fb = f := rfl
@[simp] theorem State.dirty_setFb (s : State) (f : Vector (BitVec 64) 32) : (s.setFb f).dirty = true := rfl
@[simp] theorem State.keys_setFb (s : State) (f : Vector (BitVec 64) 32) : (s.setFb f).keys = s.keys := rfl
@[simp] theorem State.mode_setFb (s : State) (f : Vector (BitVec 64) 32) : (s.setFb f).mode = s.mode := rfl
@[simp] theorem State.fault_setFb (s : State) (f : Vector (BitVec 64) 32) : (s.setFb f).fault = s.fault := rfl
@[simp] theorem State.mem_setFb (s : State) (f : Vector (BitVec 64) 32) : (s.setFb f).mem = s.mem := rfl
@[simp] theorem State.draws_setFb (s : State) (f : Vector (BitVec 64) 32) : (s.setFb f).draws = s.draws := rfl

/-! ### countDraw -/
@[simp] theorem State.v_countDraw (s : State) : (s.countDraw).v = s.v := rfl
@[simp] theorem State.i_countDraw (s : State) : (s.countDraw).i = s.i := rfl
@[simp] theorem State.pc_countDraw (s : State) : (s.countDraw).pc = s.pc := rfl
@[simp] theorem State.stack_countDraw (s : State) : (s.countDraw).stack = s.stack := rfl
@[simp] theorem State.dt_countDraw (s : State) : (s.countDraw).dt = s.dt := rfl
@[simp] theorem State.st_countDraw (s : State) : (s.countDraw).st = s.st := rfl
@[simp] theorem State.fb_countDraw (s : State) : (s.countDraw).fb = s.fb := rfl
@[simp] theorem State.dirty_countDraw (s : State) : (s.countDraw).dirty = s.dirty := rfl
@[simp] theorem State.keys_countDraw (s : State) : (s.countDraw).keys = s.keys := rfl
@[simp] theorem State.mode_countDraw (s : State) : (s.countDraw).mode = s.mode := rfl
@[simp] theorem State.fault_countDraw (s : State) : (s.countDraw).fault = s.fault := rfl
@[simp] theorem State.mem_countDraw (s : State) : (s.countDraw).mem = s.mem := rfl
@[simp] theorem State.draws_countDraw (s : State) : (s.countDraw).draws = s.draws + 1 := rfl

/-! ### setReg -/
@[simp] theorem State.i_setReg (s : State) (x : Reg) (b : Byte) : (s.setReg x b).i = s.i := rfl
@[simp] theorem State.pc_setReg (s : State) (x : Reg) (b : Byte) : (s.setReg x b).pc = s.pc := rfl
@[simp] theorem State.stack_setReg (s : State) (x : Reg) (b : Byte) : (s.setReg x b).stack = s.stack := rfl
@[simp] theorem State.dt_setReg (s : State) (x : Reg) (b : Byte) : (s.setReg x b).dt = s.dt := rfl
@[simp] theorem State.st_setReg (s : State) (x : Reg) (b : Byte) : (s.setReg x b).st = s.st := rfl
@[simp] theorem State.fb_setReg (s : State) (x : Reg) (b : Byte) : (s.setReg x b).fb = s.fb := rfl
@[simp] theorem State.dirty_setReg (s : State) (x : Reg) (b : Byte) : (s.setReg x b).dirty = s.dirty := rfl
@[simp] theorem State.keys_setReg (s : State) (x : Reg) (b : Byte) : (s.setReg x b).keys = s.keys := rfl
@[simp] theorem State.mode_setReg (s : State) (x : Reg) (b : Byte) : (s.setReg x b).mode = s.mode := rfl
@[simp] theorem State.fault_setReg (s : State) (x : Reg) (b : Byte) : (s.setReg x b).fault = s.fault := rfl
@[simp] theorem State.mem_setReg (s : State) (x : Reg) (b : Byte) : (s.setReg x b).mem = s.mem := rfl
@[simp] theorem State.draws_setReg (s : State) (x : Reg) (b : Byte) : (s.setReg x b).draws = s.draws := rfl

/-! ### setFlag -/
@[simp] theorem State.i_setFlag (s : State) (f : Bool) : (s.setFlag f).i = s.i := rfl
@[simp] theorem State.pc_setFlag (s : State) (f : Bool) : (s.setFlag f).pc = s.pc := rfl
@[simp] theorem State.stack_setFlag (s : State) (f : Bool) : (s.setFlag f).stack = s.stack := rfl
@[simp] theorem State.dt_setFlag (s : State) (f : Bool) : (s.setFlag f).dt = s.dt := rfl
@[simp] theorem State.st_setFlag (s : State) (f : Bool) : (s.setFlag f).st = s.st := rfl
@[simp] theorem State.fb_setFlag (s : State) (f : Bool) : (s.setFlag f).fb = s.fb := rfl
@[simp] theorem State.dirty_setFlag (s : State) (f : Bool) : (s.setFlag f).dirty = s.dirty := rfl
@[simp] theorem State.keys_setFlag (s : State) (f : Bool) : (s.setFlag f).keys = s.keys := rfl
@[simp] theorem State.mode_setFlag (s : State) (f : Bool) : (s.setFlag f).mode = s.mode := rfl
@[simp] theorem State.fault_setFlag (s : State) (f : Bool) : (s.setFlag f).fault = s.fault := rfl
@[simp] theorem State.mem_setFlag (s : State) (f : Bool) : (s.setFlag f).mem = s.mem := rfl
@[simp] theorem State.draws_setFlag (s : State) (f : Bool) : (s.setFlag f).draws = s.draws := rfl

/-! ### setResult -/
@[simp] theorem State.i_setResult (s : State) (x : Reg) (b : Byte) (f : Bool) : (s.setResult x b f).i = s.i := rfl
@[simp] theorem State.pc_setResult (s : State) (x : Reg) (b : Byte) (f : Bool) : (s.setResult x b f).pc = s.pc := rfl
@[simp] theorem State.stack_setResult (s : State) (x : Reg) (b : Byte) (f : Bool) : (s.setResult x b f).stack = s.stack := rfl
@[simp] theorem State.dt_setResult (s : State) (x : Reg) (b : Byte) (f : Bool) : (s.setResult x b f).dt = s.dt := rfl
@[simp] theorem State.st_setResult (s : State) (x : Reg) (b : Byte) (f : Bool) : (s.setResult x b f).st = s.st := rfl
@[simp] theorem State.fb_setResult (s : State) (x : Reg) (b : Byte) (f : Bool) : (s.setResult x b f).fb = s.fb := rfl
@[simp] theorem State.dirty_setResult (s : State) (x : Reg) (b : Byte) (f : Bool) : (s.setResult x b f).dirty = s.dirty := rfl
@[simp] theorem State.keys_setResult (s : State) (x : Reg) (b : Byte) (f : Bool) : (s.setResult x b f).keys = s.keys := rfl
@[simp] theorem State.mode_setResult (s : State) (x : Reg) (b : Byte) (f : Bool) : (s.setResult x b f).mode = s.mode := rfl
@[simp] theorem State.fault_setResult (s : State) (x : Reg) (b : Byte) (f : Bool) : (s.setResult x b f).fault = s.fault := rfl
@[simp] theorem State.mem_setResult (s : State) (x : Reg) (b : Byte) (f : Bool) : (s.setResult x b f).mem = s.mem := rfl
@[simp] theorem State.draws_setResult (s : State) (x : Reg) (b : Byte) (f : Bool) : (s.setResult x b f).draws = s.draws := rfl

/-! ### setRegRun -/
@[simp] theorem State.i_setRegRun (s : State) (bs : List Byte) : (s.setRegRun bs).i = s.i := rfl
@[simp] theorem State.pc_setRegRun (s : State) (bs : List Byte) : (s.setRegRun bs).pc = s.pc := rfl
@[simp] theorem State.stack_setRegRun (s : State) (bs : List Byte) : (s.setRegRun bs).stack = s.stack := rfl
@[simp] theorem State.dt_setRegRun (s : State) (bs : List Byte) : (s.setRegRun bs).dt = s.dt := rfl
@[simp] theorem State.st_setRegRun (s : State) (bs : List Byte) : (s.setRegRun bs).st = s.st := rfl
@[simp] theorem State.fb_setRegRun (s : State) (bs : List Byte) : (s.setRegRun bs).fb = s.fb := rfl
@[simp] theorem State.dirty_setRegRun (s : State) (bs : List Byte) : (s.setRegRun bs).dirty = s.dirty := rfl
@[simp] theorem State.keys_setRegRun (s : State) (bs : List Byte) : (s.setRegRun bs).keys = s.keys := rfl
@[simp] theorem State.mode_setRegRun (s : State) (bs : List Byte) : (s.setRegRun bs).mode = s.mode := rfl
@[simp] theorem State.fault_setRegRun (s : State) (bs : List Byte) : (s.setRegRun bs).fault = s.fault := rfl
@[simp] theorem State.mem_setRegRun (s : State) (bs : List Byte) : (s.setRegRun bs).mem = s.mem := rfl
@[simp] theorem State.draws_setRegRun (s : State) (bs : List Byte) : (s.setRegRun bs).draws = s.draws := rfl

/-! ### skipIf -/

@[simp] theorem State.pc_skipIf (s : State) (c : Bool) : (s.skipIf c).pc = if c then s.pc + 2 + 2 else s.pc + 2 := by
  cases c <;> rfl
@[simp] theorem State.v_skipIf (s : State) (c : Bool) : (s.skipIf c).v = s.v := by cases c <;> rfl
@[simp] theorem State.i_skipIf (s : State) (c : Bool) : (s.skipIf c).i = s.i := by cases c <;> rfl
@[simp] theorem State.stack_skipIf (s : State) (c : Bool) : (s.skipIf c).stack = s.stack := by cases c <;> rfl
@[simp] theorem State.dt_skipIf (s : State) (c : Bool) : (s.skipIf c).dt = s.dt := by cases c <;> rfl
@[simp] theorem State.st_skipIf (s : State) (c : Bool) : (s.skipIf c).st = s.st := by cases c <;> rfl
@[simp] theorem State.fb_skipIf (s : State) (c : Bool) : (s.skipIf c).fb = s.fb := by cases c <;> rfl
@[simp] theorem State.dirty_skipIf (s : State) (c : Bool) : (s.skipIf c).dirty = s.dirty := by cases c <;> rfl
@[simp] theorem State.keys_skipIf (s : State) (c : Bool) : (s.skipIf c).keys = s.keys := by cases c <;> rfl
@[simp] theorem State.mode_skipIf (s : State) (c : Bool) : (s.skipIf c).mode = s.mode := by cases c <;> rfl
@[simp] theorem State.fault_skipIf (s : State) (c : Bool) : (s.skipIf c).fault = s.fault := by cases c <;> rfl
@[simp] theorem State.mem_skipIf (s : State) (c : Bool) : (s.skipIf c).mem = s.mem := by cases c <;> rfl
@[simp] theorem State.draws_skipIf (s : State) (c : Bool) : (s.skipIf c).draws = s.draws := by cases c <;> rfl

end Machine
end Sys2Proof
end

