-- ==== Sys2Proof/Laws/Ops.lean ====
section
/-! SUPPORT. One law per shared operation: registers, the flag write, register runs, raising, the stack, the fetch, stores at I. -/
namespace Sys2Proof
namespace Machine

/-! ### Registers -/

theorem State.reg_setReg (s : State) (x z : Reg) (b : Byte) : (s.setReg x b).reg z = if z = x then b else s.reg z := by
  simp only [State.reg, State.setReg, Vector.get_eq_getElem, Vector.getElem_set]
  by_cases h : z = x
  · simp [h]
  · simp [h, show ¬ x.val = z.val from fun e => h (Fin.ext e.symm)]

theorem State.reg_setFlag (s : State) (z : Reg) (f : Bool) :
    (s.setFlag f).reg z = if z = vF then flagByte f else s.reg z := reg_setReg s vF z (flagByte f)

/-- The flag write has priority: VF holds the flag whatever x is (R107 b). -/
theorem State.reg_setResult (s : State) (x z : Reg) (b : Byte) (f : Bool) :
    (s.setResult x b f).reg z = if z = vF then flagByte f else if z = x then b else s.reg z := by
  rw [setResult, reg_setFlag, reg_setReg]

@[simp] theorem State.reg_advance (s : State) (z : Reg) : s.advance.reg z = s.reg z := rfl
@[simp] theorem State.reg_setPc (s : State) (a : Word) (z : Reg) : (s.setPc a).reg z = s.reg z := rfl
@[simp] theorem State.reg_setI (s : State) (a : Word) (z : Reg) : (s.setI a).reg z = s.reg z := rfl
@[simp] theorem State.reg_setDt (s : State) (b : Byte) (z : Reg) : (s.setDt b).reg z = s.reg z := rfl
@[simp] theorem State.reg_setSt (s : State) (b : Byte) (z : Reg) : (s.setSt b).reg z = s.reg z := rfl
@[simp] theorem State.reg_setMem (s : State) (m : Memory) (z : Reg) : (s.setMem m).reg z = s.reg z := rfl
@[simp] theorem State.reg_setFb (s : State) (f : Vector (BitVec 64) 32) (z : Reg) : (s.setFb f).reg z = s.reg z := rfl
@[simp] theorem State.reg_setStack (s : State) (l : List Word) (z : Reg) : (s.setStack l).reg z = s.reg z := rfl
@[simp] theorem State.reg_countDraw (s : State) (z : Reg) : s.countDraw.reg z = s.reg z := rfl
@[simp] theorem State.reg_halt (s : State) (c : Cause) (p w : Word) (z : Reg) : (s.halt c p w).reg z = s.reg z := rfl
@[simp] theorem State.reg_skipIf (s : State) (c : Bool) (z : Reg) : (s.skipIf c).reg z = s.reg z := by cases c <;> rfl

theorem get_loadFrom (k : Nat) (bs : List Byte) (v : Vector Byte 16) (z : Reg) :
    (loadFrom k bs v).get z = if k ≤ z.val then (bs[z.val - k]?).getD (v.get z) else v.get z := by
  induction bs generalizing k v with
  | nil => simp [loadFrom]
  | cons b bs ih =>
    rw [loadFrom, ih]
    simp only [Vector.get_eq_getElem, Vector.getElem_setIfInBounds]
    by_cases h1 : k = z.val
    · subst h1; simp
    · by_cases h2 : k ≤ z.val
      · have : z.val - k = (z.val - (k + 1)) + 1 := by omega
        simp [h1, h2, show k + 1 ≤ z.val by omega, this]
      · simp [h1, h2, show ¬ k + 1 ≤ z.val by omega]

/-- Everything the register fill does (R145). -/
theorem State.reg_setRegRun (s : State) (bs : List Byte) (z : Reg) :
    (s.setRegRun bs).reg z = (bs[z.val]?).getD (s.reg z) := by
  exact (get_loadFrom 0 bs s.v z).trans (by simp [reg])

@[simp] theorem State.length_regRun (s : State) (x : Reg) : (s.regRun x).length = x.val + 1 := by
  simp [regRun]

/-- The run V0 to Vx in order (R144). -/
theorem State.getElem?_regRun (s : State) (x z : Reg) (h : z ≤ x) : (s.regRun x)[z.val]? = some (s.reg z) := by
  have hz : z.val < x.val + 1 := by have := Fin.le_def.1 h; omega
  simp [regRun, hz, State.reg, Vector.get_eq_getElem]

/-! ### Raising, the stack, the fetch -/

/-- Everything a raise does: it answers a next state, the pre-state with MODE and FAULT changed (R196, R197). -/
theorem raise_eq (c : Cause) (w : Word) (s : State) : raise c w s = .next (s.halt c s.pc w) := rfl

/-- Everything Push can do (R25). -/
theorem State.push_eq_some {depth : Nat} {s t : State} {a : Word} :
    s.push depth a = some t ↔ s.stack.length < depth ∧ t = s.setStack (a :: s.stack) := by
  unfold push
  split <;> simp_all [eq_comm]

theorem State.push_eq_none {depth : Nat} {s : State} {a : Word} : s.push depth a = none ↔ depth ≤ s.stack.length := by
  unfold push
  split <;> simp_all

/-- Everything Pop can do (R25). -/
theorem State.pop_eq_some {s t : State} {a : Word} :
    s.pop = some (a, t) ↔ ∃ rest, s.stack = a :: rest ∧ t = s.setStack rest := by
  unfold pop
  split <;> simp_all [eq_comm, and_comm]

theorem State.pop_eq_none {s : State} : s.pop = none ↔ s.stack = [] := by
  unfold pop
  split <;> simp_all

/-- Everything the fetch can do (R56, R101). -/
theorem State.fetchWord_eq_some {s : State} {w : Word} :
    s.fetchWord = some w ↔
      s.pc.toNat ≤ 0xFFE ∧ w = wordOfBytes (s.mem.readByte s.pc.toNat) (s.mem.readByte (s.pc.toNat + 1)) := by
  unfold fetchWord
  simp only [Config.memSize]
  split
  · simp [eq_comm, show s.pc.toNat ≤ 4094 by omega]
  · simp; omega

theorem State.fetchWord_eq_none {s : State} : s.fetchWord = none ↔ 0xFFF ≤ s.pc.toNat := by
  unfold fetchWord
  simp only [Config.memSize]
  split <;> simp <;> omega

/-- Everything a store at I can do (R55, R146). -/
theorem storeAtI_cases (bs : List Byte) (s : State) :
    (s.i.toNat + bs.length ≤ 4096 ∧
        storeAtI bs s = .next (s.setMem (s.mem.writeBytes s.i.toNat bs)).advance) ∨
      (4096 < s.i.toNat + bs.length ∧ storeAtI bs s = .next (s.halt .bounds s.pc s.i)) := by
  unfold storeAtI
  cases h : s.mem.writeRange s.i.toNat bs with
  | none => exact .inr ⟨Memory.writeRange_none.1 h, rfl⟩
  | some m =>
    obtain ⟨hle, rfl, -⟩ := Memory.writeRange_some h
    exact .inl ⟨hle, rfl⟩

end Machine
end Sys2Proof
end

