-- ==== Sys2Proof/Laws/Exec.lean ====
section
/-! SUPPORT. The laws of the instructions: what each can leave, said once, and the operand forms as numbers. -/

namespace Sys2Proof
namespace Machine

/-! ### Operand forms as numbers (R83, R117, R141, R142) -/

theorem toNat_immAddr (n : BitVec 12) : (immAddr n).toNat = n.toNat := by
  have := n.isLt
  simp [immAddr]
  omega

theorem toNat_offsetAddr (n : BitVec 12) (b : Byte) : (offsetAddr n b).toNat = n.toNat + b.toNat := by
  have := n.isLt
  have := b.isLt
  simp [offsetAddr, BitVec.toNat_add]
  omega

theorem toNat_glyphAddr (b : Byte) : (glyphAddr b).toNat = 0x50 + 5 * b.toNat := by
  have := b.isLt
  simp [glyphAddr, Config.fontBase, Config.glyphHeight]
  omega

theorem toNat_indexSum (i : Word) (b : Byte) : (indexSum .bits12 i b).toNat = (i.toNat + b.toNat) % 4096 := by
  simp [indexSum, wrapBits]
  omega

/-- The word of a jump, written as a number (R82, R111). -/
theorem encode_jp (n : BitVec 12) : encode (.jp n) = 0x1000 ||| immAddr n := by
  apply BitVec.eq_of_toNat_eq
  have h : (encode (.jp n)).toNat = 1 <<< 12 ||| n.toNat := BitVec.toNat_append 1#4 n
  rw [h, BitVec.toNat_or, toNat_immAddr]
  rfl

/-! ### What an instruction can leave -/

/-- Everything a store at I can leave. -/
theorem storeAtI_next {s t : State} {bs : List Byte} (h : storeAtI bs s = .next t) :
   (s.i.toNat + bs.length ≤ 4096 ∧ t = (s.setMem (s.mem.writeBytes s.i.toNat bs)).advance) ∨ t = s.halt .bounds s.pc s.i := by
  rcases storeAtI_cases bs s with ⟨hl, e⟩ | ⟨-, e⟩ <;> rw [e] at h <;> cases h
  · exact .inl ⟨hl, rfl⟩
  · exact .inr rfl

/-- Everything DXYN can leave. -/
theorem draw_next {e : Config.DrawEdge} {x y : Reg} {n : BitVec 4} {s t : State} (h : draw e x y n s = .next t) :
    (∃ bytes, t = ((s.setFb (drawRows e (startRow (s.reg y)) (startCol (s.reg x)) 0 bytes s.fb)).setFlag
      (collides e (startRow (s.reg y)) (startCol (s.reg x)) 0 bytes s.fb)).advance) ∨ t = s.halt .bounds s.pc s.i := by
  unfold draw at h
  split at h
  · cases h; exact .inr rfl
  · cases h; exact .inl ⟨_, rfl⟩

/-- Everything FX65 can leave. -/
theorem execFill_next {x : Reg} {s t : State} (h : execFill x s = .next t) :
   (∃ bytes, bytes.length = x.val + 1 ∧ t = (s.setRegRun bytes).advance) ∨ t = s.halt .bounds s.pc s.i := by
  unfold execFill at h
  split at h
  · cases h; exact .inr rfl
  · next hb => cases h; obtain ⟨-, rfl⟩ := Memory.readRange_some hb; exact .inl ⟨_, by simp, rfl⟩

/-- Everything 2NNN can leave. -/
theorem callTo_next {d : Nat} {nnn : BitVec 12} {s t : State} (h : callTo d nnn s = .next t) :
   (s.stack.length < d ∧ t = (s.setStack ((s.pc + 2) :: s.stack)).setPc (immAddr nnn)) ∨ t = s.halt .stack s.pc 1 := by
  unfold callTo at h
  split at h
  · cases h; exact .inr rfl
  · next hb => cases h; obtain ⟨hl, rfl⟩ := State.push_eq_some.1 hb; exact .inl ⟨hl, rfl⟩

/-- Everything 00EE can leave. -/
theorem execRet_next {s t : State} (h : execRet s = .next t) :
   (∃ a rest, s.stack = a :: rest ∧ t = (s.setStack rest).setPc a) ∨ t = s.halt .stack s.pc 0 := by
  unfold execRet at h
  split at h
  · cases h; exact .inr rfl
  · next hb => cases h; obtain ⟨r, hr, rfl⟩ := State.pop_eq_some.1 hb; exact .inl ⟨_, _, hr, rfl⟩

/-- The inversion of exec: a next state is a raise, or the instruction's own effect as a composition of named updates. Frames and
invariants follow from it by `cases i` without unfolding a meaning. -/
theorem exec_cases {i : Instr} {s t : State} (h : exec i s = .next t) :
  (∃ c w, c ≠ .none ∧ t = s.halt c s.pc w) ∨
  match i with
  | .cls => t = (s.setFb (Vector.replicate 32 0)).advance
  | .ret => ∃ a rest, s.stack = a :: rest ∧ t = (s.setStack rest).setPc a
  | .jp nnn => t = s.setPc (immAddr nnn)
  | .call nnn => s.stack.length < 16 ∧ t = (s.setStack ((s.pc + 2) :: s.stack)).setPc (immAddr nnn)
  | .seImm _ _ | .sneImm _ _ | .seReg _ _ | .sneReg _ _ => ∃ c, t = s.skipIf c
  | .ldImm x _ | .addImm x _ | .ldReg x _ | .orReg x _ | .andReg x _ | .xorReg x _ | .ldVxDt x => ∃ b, t = (s.setReg x b).advance
  | .rnd x _ => ∃ b, t = (s.setReg x b).countDraw.advance
  | .addReg x _ | .subReg x _ | .shr x _ | .subn x _ | .shl x _ => ∃ b f, t = (s.setResult x b f).advance
  | .ldI nnn => t = (s.setI (immAddr nnn)).advance
  | .jpV0 nnn => t = s.setPc (offsetAddr nnn (s.reg 0))
  | .drw _ _ _ => ∃ fb f, t = ((s.setFb fb).setFlag f).advance
  | .skp _ | .sknp _ | .ldVxK _ => False
  | .ldDtVx x => t = (s.setDt (s.reg x)).advance
  | .ldStVx x => t = (s.setSt (s.reg x)).advance
  | .addI x => t = ((s.setI (indexSum .bits12 s.i (s.reg x))).setFlag (indexOverflow s.i (s.reg x))).advance
  | .ldF x => t = (s.setI (glyphAddr (s.reg x))).advance
  | .ldB _ | .spill _ => ∃ bs, s.i.toNat + bs.length ≤ 4096 ∧ t = (s.setMem (s.mem.writeBytes s.i.toNat bs)).advance
  | .fill x => ∃ bs, bs.length = x.val + 1 ∧ t = (s.setRegRun bs).advance := by
  cases i
  case ret => rcases execRet_next h with h | h; exact .inr h; exact .inl ⟨_, _, by simp, h⟩
  case call => rcases callTo_next h with h | h; exact .inr h; exact .inl ⟨_, _, by simp, h⟩
  case fill => rcases execFill_next h with h | h; exact .inr h; exact .inl ⟨_, _, by simp, h⟩
  case ldB => rcases storeAtI_next h with h | h; exact .inr ⟨_, h⟩; exact .inl ⟨_, _, by simp, h⟩
  case spill => rcases storeAtI_next h with h | h; exact .inr ⟨_, h⟩; exact .inl ⟨_, _, by simp, h⟩
  case drw => rcases draw_next h with ⟨b, h⟩ | h; exact .inr ⟨_, _, h⟩; exact .inl ⟨_, _, by simp, h⟩
  case skp => cases h; exact .inl ⟨.decode, _, by simp, rfl⟩
  case sknp => cases h; exact .inl ⟨.decode, _, by simp, rfl⟩
  case ldVxK => cases h; exact .inl ⟨.decode, _, by simp, rfl⟩
  all_goals (cases h; right; first | rfl | exact ⟨_, rfl⟩ | exact ⟨_, _, rfl⟩)

end Machine
end Sys2Proof
end

