-- ==== Sys2Proof/Laws/PerInstr.lean ====
section
/-! SUPPORT. The per-instruction family Encoding: the word an instruction encodes to matches its own row of the opcode map, by
mask and pattern, so every instruction encodes to a well-formed word (30_encoding.md R85). -/

namespace Sys2Proof
namespace Laws
namespace Encoding

/-- The encoded word belongs to the instruction's row of R85. -/
def Statement (i : Instr) : Prop := ∃ r ∈ opcodeMap, r.mnemonic = i.mnemonic ∧ r.covers (encode i) = true

theorem cls : Statement (.cls) :=
  ⟨⟨"00E0", 0xFFFF, 0x00E0⟩, by decide, rfl, by decide⟩

theorem ret : Statement (.ret) :=
  ⟨⟨"00EE", 0xFFFF, 0x00EE⟩, by decide, rfl, by decide⟩

theorem jp (nnn : BitVec 12) : Statement (.jp nnn) :=
  ⟨⟨"1NNN", 0xF000, 0x1000⟩, by decide, rfl, beq_iff_eq.2 (mask_formatA ..)⟩

theorem call (nnn : BitVec 12) : Statement (.call nnn) :=
  ⟨⟨"2NNN", 0xF000, 0x2000⟩, by decide, rfl, beq_iff_eq.2 (mask_formatA ..)⟩

theorem seImm (x : Reg) (nn : Byte) : Statement (.seImm x nn) :=
  ⟨⟨"3XNN", 0xF000, 0x3000⟩, by decide, rfl, beq_iff_eq.2 (mask_formatI ..)⟩

theorem sneImm (x : Reg) (nn : Byte) : Statement (.sneImm x nn) :=
  ⟨⟨"4XNN", 0xF000, 0x4000⟩, by decide, rfl, beq_iff_eq.2 (mask_formatI ..)⟩

theorem seReg (x : Reg) (y : Reg) : Statement (.seReg x y) :=
  ⟨⟨"5XY0", 0xF00F, 0x5000⟩, by decide, rfl, beq_iff_eq.2 (mask_formatR ..)⟩

theorem ldImm (x : Reg) (nn : Byte) : Statement (.ldImm x nn) :=
  ⟨⟨"6XNN", 0xF000, 0x6000⟩, by decide, rfl, beq_iff_eq.2 (mask_formatI ..)⟩

theorem addImm (x : Reg) (nn : Byte) : Statement (.addImm x nn) :=
  ⟨⟨"7XNN", 0xF000, 0x7000⟩, by decide, rfl, beq_iff_eq.2 (mask_formatI ..)⟩

theorem ldReg (x : Reg) (y : Reg) : Statement (.ldReg x y) :=
  ⟨⟨"8XY0", 0xF00F, 0x8000⟩, by decide, rfl, beq_iff_eq.2 (mask_formatR ..)⟩

theorem orReg (x : Reg) (y : Reg) : Statement (.orReg x y) :=
  ⟨⟨"8XY1", 0xF00F, 0x8001⟩, by decide, rfl, beq_iff_eq.2 (mask_formatR ..)⟩

theorem andReg (x : Reg) (y : Reg) : Statement (.andReg x y) :=
  ⟨⟨"8XY2", 0xF00F, 0x8002⟩, by decide, rfl, beq_iff_eq.2 (mask_formatR ..)⟩

theorem xorReg (x : Reg) (y : Reg) : Statement (.xorReg x y) :=
  ⟨⟨"8XY3", 0xF00F, 0x8003⟩, by decide, rfl, beq_iff_eq.2 (mask_formatR ..)⟩

theorem addReg (x : Reg) (y : Reg) : Statement (.addReg x y) :=
  ⟨⟨"8XY4", 0xF00F, 0x8004⟩, by decide, rfl, beq_iff_eq.2 (mask_formatR ..)⟩

theorem subReg (x : Reg) (y : Reg) : Statement (.subReg x y) :=
  ⟨⟨"8XY5", 0xF00F, 0x8005⟩, by decide, rfl, beq_iff_eq.2 (mask_formatR ..)⟩

theorem shr (x : Reg) (y : Reg) : Statement (.shr x y) :=
  ⟨⟨"8XY6", 0xF00F, 0x8006⟩, by decide, rfl, beq_iff_eq.2 (mask_formatR ..)⟩

theorem subn (x : Reg) (y : Reg) : Statement (.subn x y) :=
  ⟨⟨"8XY7", 0xF00F, 0x8007⟩, by decide, rfl, beq_iff_eq.2 (mask_formatR ..)⟩

theorem shl (x : Reg) (y : Reg) : Statement (.shl x y) :=
  ⟨⟨"8XYE", 0xF00F, 0x800E⟩, by decide, rfl, beq_iff_eq.2 (mask_formatR ..)⟩

theorem sneReg (x : Reg) (y : Reg) : Statement (.sneReg x y) :=
  ⟨⟨"9XY0", 0xF00F, 0x9000⟩, by decide, rfl, beq_iff_eq.2 (mask_formatR ..)⟩

theorem ldI (nnn : BitVec 12) : Statement (.ldI nnn) :=
  ⟨⟨"ANNN", 0xF000, 0xA000⟩, by decide, rfl, beq_iff_eq.2 (mask_formatA ..)⟩

theorem jpV0 (nnn : BitVec 12) : Statement (.jpV0 nnn) :=
  ⟨⟨"BNNN", 0xF000, 0xB000⟩, by decide, rfl, beq_iff_eq.2 (mask_formatA ..)⟩

theorem rnd (x : Reg) (nn : Byte) : Statement (.rnd x nn) :=
  ⟨⟨"CXNN", 0xF000, 0xC000⟩, by decide, rfl, beq_iff_eq.2 (mask_formatI ..)⟩

theorem drw (x : Reg) (y : Reg) (n : BitVec 4) : Statement (.drw x y n) :=
  ⟨⟨"DXYN", 0xF000, 0xD000⟩, by decide, rfl, beq_iff_eq.2 (mask_formatR_top ..)⟩

theorem skp (x : Reg) : Statement (.skp x) :=
  ⟨⟨"EX9E", 0xF0FF, 0xE09E⟩, by decide, rfl, beq_iff_eq.2 (mask_formatF ..)⟩

theorem sknp (x : Reg) : Statement (.sknp x) :=
  ⟨⟨"EXA1", 0xF0FF, 0xE0A1⟩, by decide, rfl, beq_iff_eq.2 (mask_formatF ..)⟩

theorem ldVxDt (x : Reg) : Statement (.ldVxDt x) :=
  ⟨⟨"FX07", 0xF0FF, 0xF007⟩, by decide, rfl, beq_iff_eq.2 (mask_formatF ..)⟩

theorem ldVxK (x : Reg) : Statement (.ldVxK x) :=
  ⟨⟨"FX0A", 0xF0FF, 0xF00A⟩, by decide, rfl, beq_iff_eq.2 (mask_formatF ..)⟩

theorem ldDtVx (x : Reg) : Statement (.ldDtVx x) :=
  ⟨⟨"FX15", 0xF0FF, 0xF015⟩, by decide, rfl, beq_iff_eq.2 (mask_formatF ..)⟩

theorem ldStVx (x : Reg) : Statement (.ldStVx x) :=
  ⟨⟨"FX18", 0xF0FF, 0xF018⟩, by decide, rfl, beq_iff_eq.2 (mask_formatF ..)⟩

theorem addI (x : Reg) : Statement (.addI x) :=
  ⟨⟨"FX1E", 0xF0FF, 0xF01E⟩, by decide, rfl, beq_iff_eq.2 (mask_formatF ..)⟩

theorem ldF (x : Reg) : Statement (.ldF x) :=
  ⟨⟨"FX29", 0xF0FF, 0xF029⟩, by decide, rfl, beq_iff_eq.2 (mask_formatF ..)⟩

theorem ldB (x : Reg) : Statement (.ldB x) :=
  ⟨⟨"FX33", 0xF0FF, 0xF033⟩, by decide, rfl, beq_iff_eq.2 (mask_formatF ..)⟩

theorem spill (x : Reg) : Statement (.spill x) :=
  ⟨⟨"FX55", 0xF0FF, 0xF055⟩, by decide, rfl, beq_iff_eq.2 (mask_formatF ..)⟩

theorem fill (x : Reg) : Statement (.fill x) :=
  ⟨⟨"FX65", 0xF0FF, 0xF065⟩, by decide, rfl, beq_iff_eq.2 (mask_formatF ..)⟩

end Encoding
end Laws
end Sys2Proof
end

