-- ==== Sys2Proof/Laws/Step.lean ====
section
/-! SUPPORT. The laws of the step: everything one step can do, and that the parametric machine at the hardware's parameters and
the free draw is the machine. -/

namespace Sys2Proof
namespace Machine

/-- Everything a step can do: nothing in Halted, a fetch fault, a decode fault, or the decoded instruction (R100, R106). -/
theorem stepBy_cases (run : Instr → State → Host.Outcome State Fault Refusal) (s : State) :
    (s.mode = .halted ∧ stepBy run s = .next s) ∨
      (s.mode = .running ∧ s.fetchWord = none ∧ stepBy run s = .next (s.halt .bounds s.pc s.pc)) ∨
      (∃ w r, s.mode = .running ∧ s.fetchWord = some w ∧ decode w = .error r ∧
        stepBy run s = .next (s.halt .decode s.pc w)) ∨
      (∃ w i, s.mode = .running ∧ s.fetchWord = some w ∧ decode w = .ok i ∧ stepBy run s = run i s) := by
  unfold stepBy
  cases hm : s.mode with
  | halted => exact .inl ⟨rfl, rfl⟩
  | running =>
    cases hf : s.fetchWord with
    | none => exact .inr (.inl ⟨rfl, rfl, rfl⟩)
    | some w =>
      cases hd : decode w with
      | error r => exact .inr (.inr (.inl ⟨w, r, rfl, rfl, hd, by simp [hd, raise_eq]⟩))
      | ok i => exact .inr (.inr (.inr ⟨w, i, rfl, rfl, hd, by simp [hd]⟩))

/-- The machine is the parametric machine at the hardware's parameters and the free draw (R4, R30). -/
theorem exec_eq_execWith (i : Instr) (s : State) : exec i s = execWith hardware (Config.randomByte s.draws) i s := by
  cases i <;> rfl

theorem step_eq_stepWith (s : State) : step s = stepWith hardware (Config.randomByte s.draws) s := by
  unfold step stepWith stepBy
  simp only [exec_eq_execWith]

/-- Only CXNN looks at the draw. -/
theorem execWith_draw (p : Config.Params) (r r' : Byte) (i : Instr) (s : State) (h : ∀ x nn, i ≠ .rnd x nn) :
    execWith p r i s = execWith p r' i s := by
  cases i <;> first | rfl | exact absurd rfl (h _ _)

set_option maxRecDepth 8192 in
/-- Reset at the hardware's parameters is the reset state, but for the count of draws (R171, R210). -/
theorem resetOp_hardware (s : State) : resetOp hardware s = { State.reset with draws := s.draws } := by
  have h : Memory.writeBytes [] Config.fontBase hardware.font.toList = [] := by decide
  rw [resetOp, h]; rfl

/-- The state a Load leaves keeps the canonical memory. -/
theorem wf_loadOp {bytes : List Byte} {s : State} (h : s.mem.wf = true) : (loadOp bytes s).mem.wf = true := by
  unfold loadOp
  split
  · exact h
  · split
    · simpa using h
    · next m hm => exact (Memory.writeRange_some hm).2.2 h

/-- The state a Reset leaves has a canonical memory, whatever FONT is. -/
theorem wf_resetOp (p : Config.Params) (s : State) : (resetOp p s).mem.wf = true := by
  have h : Config.fontBase + p.font.toList.length ≤ Config.memSize := by simp [Config.fontBase, Config.memSize]
  exact Memory.wf_writeBytes (m := []) rfl h

/-- A tick as a number (R163). -/
theorem toNat_tickDown (b : Byte) : (tickDown b).toNat = b.toNat - 1 := by
  have := b.isLt
  unfold tickDown
  split
  · next h => simp [h]
  · next h =>
    have : b.toNat ≠ 0 := fun e => h (BitVec.eq_of_toNat_eq e)
    simp [BitVec.toNat_sub]
    omega

/-- The memory right after reset is canonical. -/
theorem reset_memory_wf : State.reset.mem.wf = true := rfl

end Machine
end Sys2Proof
end

