-- ==== Sys2Proof/Tests/Slice0.lean ====
section
/-! SUPPORT. Tests. Expected results are from spec/95_test_vectors.md (the vector is named in each docstring) or worked out by hand from
the rules named; then one witness for each statement that has hypotheses. -/

namespace Sys2Proof.Tests

open Sys2Proof.Machine Sys2Proof.Safety

/-! ### Helpers -/

/-- Fresh, then the named registers. -/
def regs (l : List (Reg × Byte)) : State := l.foldl (fun s p => s.setReg p.1 p.2) State.reset

/-- Bytes put into memory from an address up. -/
def put (s : State) (a : Nat) (bytes : List Byte) : State := s.setMem (s.mem.writeBytes a bytes)

/-- A look at the next state, if there is one. -/
def look {α : Type} (f : State → α) : Host.Outcome State Fault Refusal → Option α
  | .next t => some (f t)
  | _ => none

/-- One Step with the word placed where it is fetched. -/
def run {α : Type} (w : Nat) (s : State) (f : State → α) : Option α := look f (step (s.withFetchWord 16 w))

/-- VF and another register. -/
def flagAnd (x : Reg) (s : State) : Byte × Byte := (s.reg x, s.reg 15)

/-- FAULT as the vectors write it, with MODE: halted, cause code, fault_pc, info. -/
def faultOf (s : State) : Bool × Nat × Nat × Nat :=
  (s.mode == .halted, s.fault.cause.code.toNat, s.fault.faultPc.toNat, s.fault.info.toNat)

/-- Three bytes of memory. -/
def three (a : Nat) (s : State) : List Nat := (s.mem.readBytes a 3).map BitVec.toNat

/-! ### Decoding: words written out from 30_encoding.md, the opcode nibble, then the fields, then the literal nibbles -/

/-- Words of families 0 to 7. -/
theorem test_decode_low :
    decode 0x00E0 = .ok .cls ∧ decode 0x00EE = .ok .ret ∧ decode 0x1ABC = .ok (.jp 0xABC) ∧
    decode 0x2206 = .ok (.call 0x206) ∧ decode 0x31FE = .ok (.seImm 1 0xFE) ∧ decode 0x4211 = .ok (.sneImm 2 0x11) ∧
    decode 0x5340 = .ok (.seReg 3 4) ∧ decode 0x6A2A = .ok (.ldImm 10 0x2A) ∧ decode 0x7F05 = .ok (.addImm 15 5) := by
  decide

/-- Words of family 8. -/
theorem test_decode_alu :
    decode 0x8120 = .ok (.ldReg 1 2) ∧ decode 0x8121 = .ok (.orReg 1 2) ∧ decode 0x8122 = .ok (.andReg 1 2) ∧
    decode 0x8123 = .ok (.xorReg 1 2) ∧ decode 0x8374 = .ok (.addReg 3 7) ∧ decode 0x8F15 = .ok (.subReg 15 1) ∧
    decode 0x8126 = .ok (.shr 1 2) ∧ decode 0x8127 = .ok (.subn 1 2) ∧ decode 0x812E = .ok (.shl 1 2) := by decide

/-- Words of families 9 to E. -/
theorem test_decode_high :
    decode 0x9AB0 = .ok (.sneReg 10 11) ∧ decode 0xA212 = .ok (.ldI 0x212) ∧ decode 0xBF00 = .ok (.jpV0 0xF00) ∧
    decode 0xC30F = .ok (.rnd 3 0x0F) ∧ decode 0xD125 = .ok (.drw 1 2 5) ∧ decode 0xE19E = .ok (.skp 1) ∧
    decode 0xE2A1 = .ok (.sknp 2) := by decide

/-- Words of family F. -/
theorem test_decode_F :
    decode 0xF107 = .ok (.ldVxDt 1) ∧ decode 0xF50A = .ok (.ldVxK 5) ∧ decode 0xF015 = .ok (.ldDtVx 0) ∧
    decode 0xF118 = .ok (.ldStVx 1) ∧ decode 0xFF1E = .ok (.addI 15) ∧ decode 0xFA29 = .ok (.ldF 10) ∧
    decode 0xF033 = .ok (.ldB 0) ∧ decode 0xF255 = .ok (.spill 2) ∧ decode 0xF265 = .ok (.fill 2) := by decide

/-- Illegal words, V-DEC-1 to V-DEC-9: each is rejected under its family's name. -/
theorem test_decode_illegal :
    decode 0x0000 = .error .illegal0 ∧ decode 0x00E1 = .error .illegal0 ∧ decode 0x01E0 = .error .illegal0 ∧
    decode 0x0123 = .error .illegal0 ∧ decode 0x5121 = .error .illegal5 ∧ decode 0x8128 = .error .illegal8 ∧
    decode 0x812F = .error .illegal8 ∧ decode 0x9AB1 = .error .illegal9 ∧ decode 0xE100 = .error .illegalE ∧
    decode 0xF1FF = .error .illegalF ∧ decode 0xFFFF = .error .illegalF := by decide

/-- The well-formedness check refuses an ill-formed word of every family that has one, and accepts a neighbour of each. -/
theorem test_wellFormed_smoke :
    [0x0000, 0x00E1, 0x01E0, 0x0123, 0x5121, 0x8128, 0x812F, 0x9AB1, 0xE100, 0xF1FF].all (fun w => !wellFormedWord w) = true ∧
    [0x00E0, 0x00EE, 0x5120, 0x8127, 0x812E, 0x9AB0, 0xE19E, 0xF165].all wellFormedWord = true := by decide

/-- Instructions encode to the words written out from R82 and R85. -/
theorem test_encode_words :
    encode (.shr 8 15) = 0x88F6 ∧ encode (.drw 1 2 15) = 0xD12F ∧ encode (.rnd 12 0xA5) = 0xCCA5 ∧
    encodeBytes (.ldI 0x212) = [0xA2, 0x12] ∧ encode (.ldVxK 15) = 0xFF0A := by decide

/-- The bytes of an instruction are read high byte first, the rest is given back, and one byte is not an instruction. -/
theorem test_decodeBytes :
    decodeBytes [0x12, 0x34, 0x99] = .ok (.jp 0x234, [0x99]) ∧ decodeBytes [0x61] = .error .truncated := by decide

/-- The opcode-table numbering: the table's word is the word itself. -/
theorem test_decodeTableWord :
    decodeTableWord 16 0x612A = some (.ldImm 1 0x2A) ∧ decodeTableWord 16 0x5121 = none := by decide

/-! ### The step: fetch, decode faults, Halted -/

/-- V-DEC-1: from Fresh with nothing loaded. -/
theorem test_step_unloaded : look faultOf (step State.reset) = some (true, 2, 0x200, 0) := by decide

/-- V-DEC-5: a word of no row. -/
theorem test_step_illegal : run 0x5341 State.reset faultOf = some (true, 2, 0x200, 0x5341) := by decide

/-- V-DEC-10: the three key opcodes. -/
theorem test_step_keys :
    run 0xE19E State.reset faultOf = some (true, 2, 0x200, 0xE19E) ∧
    run 0xE2A1 State.reset faultOf = some (true, 2, 0x200, 0xE2A1) ∧
    run 0xF50A State.reset faultOf = some (true, 2, 0x200, 0xF50A) := by decide

/-- S8-2: an odd address, big-endian: 61 2A at 0x203. -/
theorem test_step_odd :
    look (fun t => (t.reg 1, t.pc)) (step (put (State.reset.setPc 0x203) 0x203 [0x61, 0x2A])) = some (0x2A, 0x205) := by decide

/-- V-CF-17 and V-CF-16: 0xFFE is the last fetchable address. -/
theorem test_step_last :
    look faultOf (step (State.reset.setPc 0xFFE)) = some (true, 2, 0xFFE, 0) ∧
    look faultOf (step (State.reset.setPc 0xFFF)) = some (true, 1, 0xFFF, 0xFFF) := by decide

/-- A Step in Halted leaves PC and FAULT (R106). -/
theorem test_step_halted :
    look (fun t => (t.pc, faultOf t)) (step (State.reset.halt .stack 0x20A 0)) = some (0x200, true, 3, 0x20A, 0) := by decide

/-! ### Control transfer -/

/-- V-CF-1, V-CF-2. -/
theorem test_seImm : run 0x3100 State.reset (·.pc) = some 0x204 ∧ run 0x3100 (regs [(1, 4)]) (·.pc) = some 0x202 := by decide

/-- V-CF-3, V-CF-4. -/
theorem test_sneImm :
    run 0x4211 (regs [(2, 0x10)]) (·.pc) = some 0x204 ∧ run 0x4210 (regs [(2, 0x10)]) (·.pc) = some 0x202 := by decide

/-- V-CF-5, V-CF-7. -/
theorem test_seReg :
    run 0x5340 (regs [(3, 0x7F), (4, 0x7F)]) (·.pc) = some 0x204 ∧ run 0x5340 (regs [(3, 1), (4, 2)]) (·.pc) = some 0x202 := by
  decide

/-- V-CF-6, V-CF-8. -/
theorem test_sneReg :
    run 0x9340 (regs [(3, 0x7F), (4, 0x7F)]) (·.pc) = some 0x202 ∧ run 0x9340 (regs [(3, 1), (4, 2)]) (·.pc) = some 0x204 := by
  decide

/-- V-CF-16 and V-CF-11: the top address, and the self-jump that leaves the state. -/
theorem test_jp :
    run 0x1FFF State.reset (·.pc) = some 0xFFF ∧
    run 0x1200 State.reset id = some (State.reset.withFetchWord 16 0x1200) := by decide

/-- V-CF-12: a call from 0x200. -/
theorem test_call : run 0x2206 State.reset (fun t => (t.stack, t.pc)) = some ([0x202], 0x206) := by decide

/-- V-CF-21, the seventeenth step: sixteen entries are the most. -/
theorem test_call_overflow :
    run 0x2200 (State.reset.setStack (List.replicate 16 0x202)) (fun t => (t.stack.length, t.pc, faultOf t)) =
      some (16, 0x200, true, 3, 0x200, 1) := by decide

/-- S8-7: the return comes back to 0x202. -/
theorem test_ret :
    look (fun t => (t.pc, t.stack)) (step (put ((State.reset.setStack [0x202, 0x333]).setPc 0x206) 0x206 [0x00, 0xEE])) =
      some (0x202, [0x333]) := by decide

/-- V-CF-18. -/
theorem test_ret_underflow : run 0x00EE State.reset faultOf = some (true, 3, 0x200, 0) := by decide

/-- V-CF-13, V-CF-14: always V0, no mask. -/
theorem test_jpV0 :
    run 0xB302 (regs [(0, 0xFF), (3, 1)]) (·.pc) = some 0x401 ∧ run 0xBFFF (regs [(0, 0xFF)]) (·.pc) = some 0x10FE := by decide

/-! ### Register load and ALU -/

/-- V-ALU-1. -/
theorem test_ldImm : run 0x6A2A State.reset (fun t => (t.reg 10, t.pc)) = some (0x2A, 0x202) := by decide

/-- V-ALU-3: wraps, VF unchanged. -/
theorem test_addImm : run 0x7102 (regs [(1, 0xFF), (15, 0x5A)]) (flagAnd 1) = some (1, 0x5A) := by decide

/-- V-ALU-4. -/
theorem test_ldReg : run 0x8120 (regs [(1, 0x11), (2, 0x99), (15, 0x5A)]) (flagAnd 1) = some (0x99, 0x5A) := by decide

/-- V-ALU-5. -/
theorem test_orReg : run 0x8121 (regs [(1, 0xF0), (2, 0x0F), (15, 0x5A)]) (flagAnd 1) = some (0xFF, 0x5A) := by decide

/-- V-ALU-6. -/
theorem test_andReg : run 0x8122 (regs [(1, 0xF0), (2, 0x3C), (15, 0x5A)]) (flagAnd 1) = some (0x30, 0x5A) := by decide

/-- V-ALU-7. -/
theorem test_xorReg : run 0x8123 (regs [(1, 0xF0), (2, 0x3C), (15, 0x5A)]) (flagAnd 1) = some (0xCC, 0x5A) := by decide

/-- V-ALU-9 and V-ALU-14: the carry, and VF as the destination. -/
theorem test_addReg :
    run 0x8124 (regs [(1, 0xFF), (2, 1)]) (flagAnd 1) = some (0, 1) ∧ run 0x8F14 (regs [(1, 1), (15, 0xFF)]) (flagAnd 1) = some (1, 1) :=
  by decide

/-- V-ALU-16: VF as the addend. -/
theorem test_addReg_flag_operand : run 0x81F4 (regs [(1, 2), (15, 0xFF)]) (flagAnd 1) = some (1, 1) := by decide

/-- V-ALU-17, V-ALU-19. -/
theorem test_subReg :
    run 0x8125 (regs [(1, 1), (2, 2)]) (flagAnd 1) = some (0xFF, 0) ∧ run 0x8125 (regs [(1, 7), (2, 7)]) (flagAnd 1) = some (0, 1) := by
  decide

/-- V-ALU-24, V-ALU-23: the operands the other way round. -/
theorem test_subn :
    run 0x8127 (regs [(1, 5), (2, 2)]) (flagAnd 1) = some (0xFD, 0) ∧ run 0x8127 (regs [(1, 2), (2, 5)]) (flagAnd 1) = some (3, 1) := by
  decide

/-- V-ALU-26, V-ALU-29: y is ignored; VF as the destination. -/
theorem test_shr :
    run 0x8126 (regs [(1, 5), (2, 0xAA)]) (flagAnd 1) = some (2, 1) ∧ run 0x8FF6 (regs [(15, 3)]) (·.reg 15) = some 1 := by decide

/-- V-ALU-30, V-ALU-31. -/
theorem test_shl :
    run 0x812E (regs [(1, 0x81)]) (flagAnd 1) = some (2, 1) ∧ run 0x812E (regs [(1, 0x7F), (2, 0xFF)]) (flagAnd 1) = some (0xFE, 0) := by
  decide

/-- V-ALU-34, V-ALU-35: SHIFT_QUIRK = legacy. -/
theorem test_shift_legacy :
    look (flagAnd 1) (execWith { hardware with shiftQuirk := .legacy } 0 (.shr 1 2) (regs [(1, 0xAA), (2, 5)])) = some (2, 1) ∧
    look (flagAnd 1) (execWith { hardware with shiftQuirk := .legacy } 0 (.shl 1 2) (regs [(1, 1), (2, 0xC0)])) = some (0x80, 1) := by
  decide

/-- V-ALU-36, V-ALU-38: the draw is an input. -/
theorem test_rnd :
    look (·.reg 3) (execWith hardware 0xA7 (.rnd 3 0x0F) State.reset) = some 0x07 ∧
    look (·.reg 5) (execWith hardware 0xFF (.rnd 5 0x00) (regs [(5, 9)])) = some 0 := by decide

/-- CXNN in the machine, where the draw is a free value: it completes and advances (R131). -/
theorem test_rnd_step : run 0xC30F State.reset (fun t => (t.pc, t.draws)) = some (0x202, 1) := by decide

/-! ### Index register and memory -/

/-- V-IDX-2. -/
theorem test_ldI : run 0xAFFF State.reset (·.i) = some 0xFFF := by decide

/-- V-IDX-3, V-IDX-6: the wrap, and the flag cleared. -/
theorem test_addI :
    run 0xF11E ((regs [(1, 7)]).setI 0xFFE) (fun t => (t.i, t.reg 15)) = some (0x005, 1) ∧
    run 0xF11E ((regs [(1, 0x10), (15, 1)]).setI 0x100) (fun t => (t.i, t.reg 15)) = some (0x110, 0) := by decide

/-- V-IDX-8: VF is the addend before it is the flag; V-IDX-9: I_WRAP_BITS = 16. -/
theorem test_addI_forms :
    run 0xFF1E ((regs [(15, 5)]).setI 0x100) (fun t => (t.i, t.reg 15)) = some (0x105, 0) ∧
    look (fun t => (t.i, t.reg 15)) (execWith { hardware with indexWrap := .bits16 } 0 (.addI 1) ((regs [(1, 7)]).setI 0xFFE)) =
      some (0x1005, 1) := by decide

/-- V-IDX-12, V-IDX-14: no mask. -/
theorem test_ldF : run 0xF029 (regs [(0, 0x0F)]) (·.i) = some 0x09B ∧ run 0xFA29 (regs [(10, 0xFF)]) (·.i) = some 0x54B := by decide

/-- V-IDX-21: the last legal I. -/
theorem test_ldB : run 0xF033 ((regs [(0, 234)]).setI 0xFFD) (three 0xFFD) = some [2, 3, 4] := by decide

/-- V-IDX-22. -/
theorem test_ldB_bounds :
    run 0xF033 ((regs [(0, 234)]).setI 0xFFE) (fun t => (faultOf t, t.pc, t.mem.readByte 0xFFE)) =
      some ((true, 1, 0x200, 0xFFE), 0x200, 0) := by decide

/-- V-IDX-24: I unchanged, the byte after the run unchanged. -/
theorem test_spill :
    run 0xF255 ((regs [(0, 0x11), (1, 0x22), (2, 0x33), (3, 0x44)]).setI 0x400) (fun t => (three 0x401 t, t.i)) =
      some ([0x22, 0x33, 0], 0x400) := by decide

/-- V-IDX-28: nothing is stored where the range leaves memory. -/
theorem test_spill_bounds :
    run 0xF155 ((regs [(0, 0x77)]).setI 0xFFF) (fun t => (faultOf t, t.mem.readByte 0xFFF)) = some ((true, 1, 0x200, 0xFFF), 0) := by
  decide

/-- V-IDX-29: the first bytes of glyph 0, V3 untouched. -/
theorem test_fill :
    run 0xF265 ((regs [(3, 0x99)]).setI 0x050) (fun t => (t.reg 0, t.reg 1, t.reg 2, t.reg 3, t.i)) =
      some (0xF0, 0x90, 0x90, 0x99, 0x050) := by decide

/-- V-IDX-31. -/
theorem test_fill_bounds :
    run 0xFF65 ((regs [(0, 0x42)]).setI 0xFF1) (fun t => (faultOf t, t.reg 0)) = some ((true, 1, 0x200, 0xFF1), 0x42) := by decide

/-! ### Display -/

/-- V-CLS-2: DIRTY is set though nothing changed, VF is not written. -/
theorem test_cls :
    run 0x00E0 ({ regs [(15, 9)] with fb := Vector.replicate 32 1 }) (fun t => (t.fb.get 31, t.dirty, t.reg 15, t.pc)) =
      some (0, true, 9, 0x202) := by decide

/-- V-DRW-3: wrapping at the right and the bottom edge. -/
theorem test_drw_wraps :
    run 0xD012 (put ((regs [(0, 0x3E), (1, 0x1F)]).setI 0x212) 0x212 [0xFF, 0x81]) (fun t => (t.fb.get 31, t.fb.get 0, flagAnd 0 t)) =
      some (0xFC00000000000003, 0x0400000000000002, 0x3E, 0) := by decide

/-- V-DRW-5, the last two draws: a collision, and a second draw on clear pixels that does not collide. -/
theorem test_drw_collides :
    run 0xD011 (put ({ State.reset with fb := (Vector.replicate 32 0).set 0 0xFF00000000000000 }.setI 0x301) 0x301 [0x0F])
      (fun t => (t.fb.get 0, t.reg 15, t.dirty)) = some (0xF000000000000000, 1, true) ∧
    run 0xD011 (put ({ State.reset with fb := (Vector.replicate 32 0).set 0 0xF000000000000000 }.setI 0x301) 0x301 [0x0F])
      (fun t => (t.fb.get 0, t.reg 15)) = some (0xFF00000000000000, 0) := by decide

/-- V-DRW-3c: DRAW_EDGE = clip. -/
theorem test_drw_clips :
    look (fun t => (t.fb.get 31, t.fb.get 0, t.reg 15))
      (execWith { hardware with drawEdge := .clip } 0 (.drw 0 1 2)
        (put ((regs [(0, 0x3E), (1, 0x1F)]).setI 0x212) 0x212 [0xFF, 0x81])) = some (3, 0, 0) := by decide

/-- V-DRW-6 and V-DRW-9: coordinates from the old VF; the range check. -/
theorem test_drw_flag_and_bounds :
    run 0xDFF1 (put ((regs [(15, 5)]).setI 0x300) 0x300 [0x80]) (fun t => (t.pixel 5 5, t.reg 15)) = some (true, 0) ∧
    run 0xD005 (State.reset.setI 0xFFC) (fun t => (faultOf t, t.dirty)) = some ((true, 1, 0x200, 0xFFC), false) := by decide

/-! ### Timers -/

/-- FX07 (R160). -/
theorem test_ldVxDt : run 0xF107 (State.reset.setDt 0x0A) (fun t => (t.reg 1, t.dt)) = some (0x0A, 0x0A) := by decide

/-- FX15 (V-TMR-1) and FX18 (V-TMR-3). -/
theorem test_timer_writes :
    run 0xF015 (regs [(0, 5)]) (fun t => (t.dt, t.st)) = some (5, 0) ∧ run 0xF118 (regs [(1, 2)]) (fun t => (t.dt, t.st)) = some (0, 2) := by
  decide

/-- V-TMR-3, V-TMR-5: each timer floors on its own. -/
theorem test_tick :
    (tickOp (tickOp (tickOp ((State.reset.setDt 0xFF).setSt 2)))).dt = 0xFC ∧
    (tickOp (tickOp (tickOp ((State.reset.setDt 0xFF).setSt 2)))).st = 0 ∧ tickOp State.reset = State.reset := by decide

/-! ### Host operations and reset -/

/-- V-HOST-1: the font's two ends and the bytes around it. -/
theorem test_reset_memory :
    State.reset.mem.readBytes 0x04F 3 = [0, 0xF0, 0x90] ∧ State.reset.mem.readBytes 0x09E 3 = [0x80, 0x80, 0] ∧
    State.reset.pc = 0x200 := by decide

/-- V-HOST-5: an odd-length Load, then a Step. -/
theorem test_load_step :
    look (fun t => (t.reg 1, t.pc)) (session hardware [.load [0x61], .step 0] false State.reset) = some (0, 0x202) := by
  decide

/-- V-HOST-4: SetKeys, and a step that ignores it. -/
theorem test_setKeys :
    look (fun t => (t.keys, t.pc)) (session hardware [.load [0x12, 0x00], .setKeys 0x8001, .step 0] false State.reset) =
      some (0x8001, 0x200) := by decide

/-- V-DIRTY-1: Publish clears DIRTY and leaves the picture. -/
theorem test_publish :
    (publishOp ({ State.reset with dirty := true, fb := Vector.replicate 32 7 })).dirty = false ∧
    publishOutput ({ State.reset with fb := Vector.replicate 32 7 }) = Vector.replicate 32 7 := by decide

/-- V-HOST-7: in Halted a Tick, a Publish, a SetKeys and a Load change nothing. -/
theorem test_halted_host :
    look id (session hardware [.tick, .publish, .setKeys 1, .load [1, 2]] true ((State.reset.setDt 9).halt .stack 0x20A 0)) =
      some ((State.reset.setDt 9).halt .stack 0x20A 0) := by decide

/-- A Load to a running machine after a Step has no result in the spec (U14): the session is refused. -/
theorem test_load_after_step :
    (match session hardware [.load [0x12, 0x00], .step 0, .load [1]] false State.reset with
      | .refused .loadAfterStep => true
      | _ => false) = true := by decide

/-- The font the Reset operation writes is what the model's unlisted addresses read as. -/
theorem test_resetOp : resetOp hardware (State.reset.setDt 7) = State.reset := resetOp_hardware _

/-- What the host observes of a halted machine (R175, R179, R194). -/
theorem test_observe :
    ((State.reset.halt .bounds 0x20A 0xFFE).observe.mode, (State.reset.halt .bounds 0x20A 0xFFE).observe.faultCause) = (1, 1) := by
  decide

/-- A word placed in a halted machine at an address past memory runs next (the model's own device, log entry 18). -/
theorem test_withFetchWord :
    run 0x612A ((State.reset.setPc 0xFFF).halt .bounds 0xFFF 0xFFF) (fun t => (t.reg 1, t.pc)) = some (0x2A, 0x202) := by decide

/-! ### Witnesses: a state and operands that meet the hypotheses of each statement that has any, at the ends of their ranges -/

/-- A state in which FX55 and FX65 with x = 1, FX33 from V0 and DXYN with n = 2 just fit: I = 0xFFD. -/
def nearTop : State := (regs [(0, 0x62), (1, 0x2A)]).setI 0xFFD

/-- A halted machine. -/
def stopped : State := State.reset.halt .stack 0x20A 0

theorem witness_EncodeDecodeRoundTrip : decode 0x812E = .ok (.shl 1 2) ∧ decode 0xFF65 = .ok (.fill 15) := by decide

theorem witness_DecoderFollowsOpcodeMap :
    ∃ r ∈ opcodeMap, ∃ r' ∈ opcodeMap, r.covers 0x00EE = true ∧ r'.covers 0x00EE = true := by decide

/-- At both ends of the fetchable range. -/
theorem witness_StepRunsDecodedInstruction :
    (let s := put (State.reset.setPc 0xFFE) 0xFFE [0x1F, 0xFE]
     s.mode = .running ∧ s.pc.toNat ≤ 0xFFE ∧
      (0x1FFE : Word).toNat = 256 * (s.mem.readByte s.pc.toNat).toNat + (s.mem.readByte (s.pc.toNat + 1)).toNat ∧
      decode 0x1FFE = .ok (.jp 0xFFE)) ∧
    (let s := put (State.reset.setPc 0) 0 [0x61, 0x2A]
     s.mode = .running ∧ s.pc.toNat ≤ 0xFFE ∧
      (0x612A : Word).toNat = 256 * (s.mem.readByte s.pc.toNat).toNat + (s.mem.readByte (s.pc.toNat + 1)).toNat ∧
      decode 0x612A = .ok (.ldImm 1 0x2A)) := by decide

theorem witness_FetchAndDecodeFaultsHalt_fetch :
    (State.reset.setPc 0xFFF).mode = .running ∧ 0xFFF ≤ (State.reset.setPc 0xFFF).pc.toNat := by decide

theorem witness_FetchAndDecodeFaultsHalt_decode :
    let s := State.reset.setPc 0xFFE
    s.mode = .running ∧ s.pc.toNat ≤ 0xFFE ∧
      (0x0000 : Word).toNat = 256 * (s.mem.readByte s.pc.toNat).toNat + (s.mem.readByte (s.pc.toNat + 1)).toNat ∧
      wellFormedWord 0x0000 = false := by decide

theorem witness_HaltedStepChangesNothing : stopped.mode = .halted := rfl

/-- One state for each clause: fetch, decode, the stack both ways, an access through I, a key opcode, and none. -/
theorem witness_FatalConditionsDecideTheStep :
    fatalCondition (State.reset.setPc 0xFFF) = some (.bounds, 0xFFF) ∧ fatalCondition State.reset = some (.decode, 0) ∧
    fatalCondition (State.reset.withFetchWord 16 0x00EE) = some (.stack, 0) ∧
    fatalCondition ((State.reset.setStack (List.replicate 16 0)).withFetchWord 16 0x2206) = some (.stack, 1) ∧
    fatalCondition ((State.reset.setStack (List.replicate 15 0)).withFetchWord 16 0x2206) = none ∧
    fatalCondition ((State.reset.setI 0xFFE).withFetchWord 16 0xF033) = some (.bounds, 0xFFE) ∧
    fatalCondition ((State.reset.setI 0xFFD).withFetchWord 16 0xF033) = none ∧
    fatalCondition (State.reset.withFetchWord 16 0xE19E) = some (.decode, 0xE19E) ∧
    (State.reset.withFetchWord 16 0xE19E).mode = .running := by decide

theorem witness_PlacedWordRunsNext : decode (BitVec.ofNat 16 0xD125) = .ok (.drw 1 2 5) := by decide

/-- The reset state meets the invariant, and steps. -/
theorem witness_StepKeepsInvariant : Inv State.reset ∧ ∃ t, step State.reset = .next t :=
  ⟨⟨rfl, by decide, by decide, by decide, (fun _ h => by cases h), fun _ => rfl, by decide, by decide⟩, State.reset.halt .decode 0x200 0, rfl⟩

theorem witness_SessionsKeepInvariant :
    Inv State.reset ∧ ∃ t, session hardware [.load [0x61, 0x2A], .step 0, .tick, .publish] false State.reset = .next t :=
  ⟨witness_StepKeepsInvariant.1, _, rfl⟩

/-- The last range that fits. -/
theorem witness_RangeReadsBack : ∃ m', Memory.writeRange [] 0xFFC [1, 2, 3, 4] = some m' := ⟨_, rfl⟩

theorem witness_CanonicalMemoriesExtensional :
    ∃ m m' : Memory, m = [(0x300, 1)] ∧ m.wf = true ∧ m'.wf = true ∧ ∀ a, m.readByte a = m'.readByte a :=
  ⟨[(0x300, 1)], Memory.writeByte [] 0x300 1, rfl, by decide, by decide, fun _ => rfl⟩

theorem witness_SpilledBytesAreFetched :
    nearTop.i.toNat + (1 : Reg).val + 1 ≤ 4096 ∧ (∃ t, exec (.spill 1) nearTop = .next t) ∧ (0 : Reg) ≤ 1 ∧ (1 : Reg) ≤ 1 ∧
      (0xFFD : Word).toNat = nearTop.i.toNat + (0 : Reg).val ∧ (0xFFD : Word).toNat + 1 = nearTop.i.toNat + (1 : Reg).val :=
  ⟨by decide, ⟨_, rfl⟩, by decide, by decide, by decide, by decide⟩

theorem witness_OnlyStoresWriteMemory :
    ∃ t, exec (.fill 1) nearTop = .next t ∧ (∀ x, Instr.fill 1 ≠ .ldB x) ∧ ∀ x, Instr.fill 1 ≠ .spill x :=
  ⟨_, rfl, by decide, by decide⟩

theorem witness_OnlyCallAndReturnTouchStack :
    ∃ t, exec (.jp 0x234) State.reset = .next t ∧ (∀ nnn, Instr.jp 0x234 ≠ .call nnn) ∧ Instr.jp 0x234 ≠ .ret :=
  ⟨_, rfl, fun _ => by simp, by decide⟩

theorem witness_OnlyTransfersRedirectPc :
    ∃ t, exec (.spill 1) nearTop = .next t ∧ nearTop.mode = .running ∧ t.mode = .running ∧ transfersControl (.spill 1) = false :=
  ⟨_, rfl, rfl, rfl, rfl⟩

theorem witness_OnlyIndexInstructionsWriteI :
    ∃ t, exec (.spill 1) nearTop = .next t ∧ (∀ nnn, Instr.spill 1 ≠ .ldI nnn) ∧ (∀ x, Instr.spill 1 ≠ .addI x) ∧
      ∀ x, Instr.spill 1 ≠ .ldF x :=
  ⟨_, rfl, fun _ => by simp, by decide, by decide⟩

theorem witness_OnlyTimerInstructionsWriteTimers :
    ∃ t, exec (.ldVxDt 1) State.reset = .next t ∧ (∀ x, Instr.ldVxDt 1 ≠ .ldDtVx x) ∧ ∀ x, Instr.ldVxDt 1 ≠ .ldStVx x :=
  ⟨_, rfl, by decide, by decide⟩

/-- Both clauses: an instruction of neither kind, and a draw that completes. -/
theorem witness_OnlyDisplayInstructionsTouchPicture :
    (∃ t, exec (.addReg 1 2) State.reset = .next t ∧ Instr.addReg 1 2 ≠ .cls ∧ ∀ x y n, Instr.addReg 1 2 ≠ .drw x y n) ∧
    ∃ t, exec (.drw 0 1 3) nearTop = .next t ∧ nearTop.mode = .running ∧ t.mode = .running :=
  ⟨⟨_, rfl, by decide, fun _ _ _ => by simp⟩, _, rfl, rfl, rfl⟩

/-- Both ways in: no flag written and z = VF, and a flag writer with z another register. -/
theorem witness_RegistersChangeOnlyAsNamed :
    (∃ t, exec (.orReg 1 2) State.reset = .next t) ∧ isDestination (.orReg 1 2) 15 = false ∧ writesFlag (.orReg 1 2) = false ∧
    (∃ t, exec (.addReg 1 2) State.reset = .next t) ∧ isDestination (.addReg 1 2) 2 = false ∧ (2 : Reg) ≠ 15 :=
  ⟨⟨_, rfl⟩, by decide, by decide, ⟨_, rfl⟩, by decide, by decide⟩

theorem witness_KeysInfluenceNothing :
    ∃ t, session hardware [.load [0xE1, 0x9E], .setKeys 3, .step 0, .dump] false State.reset = .next t := ⟨_, rfl⟩

/-- Both ends: an ordinary target, and the jump to itself. -/
theorem witness_JumpGoesToTarget : State.reset.pc.toNat = (0x200 : BitVec 12).toNat := by decide

/-- The deepest call that fits. -/
theorem witness_CallPushesReturnAddress : (State.reset.setStack (List.replicate 15 0x202)).stack.length < 16 := by decide

theorem witness_ReturnPopsIntoPc : ∃ rest, (State.reset.setStack [0x202]).stack = 0x202 :: rest := ⟨[], rfl⟩

theorem witness_StackErrorsHalt :
    State.reset.stack = [] ∧ 16 ≤ (State.reset.setStack (List.replicate 16 0x202)).stack.length := by decide

theorem witness_CallThenReturnComesBack :
    State.reset.stack.length < 16 ∧
      ∃ t, exec (.call 0x206) State.reset = .next t ∧ t.stack = t.stack ∧ ∃ v, exec .ret t = .next v :=
  ⟨by decide, _, rfl, rfl, _, rfl⟩

/-- The skips, taken and not taken. -/
theorem witness_SkipsCompareAndSkip :
    State.reset.reg 1 = 0 ∧ State.reset.reg 1 ≠ 1 ∧ State.reset.reg 1 = State.reset.reg 2 ∧ (regs [(1, 4)]).reg 1 ≠ (regs [(1, 4)]).reg 2 := by
  decide

/-- The premises x ≠ 15, z ≠ x and z ≠ 15 of the flag-writing ALU statements, and both flag cases at their edge. -/
theorem witness_AddSetsCarry :
    (1 : Reg) ≠ 15 ∧ (2 : Reg) ≠ 1 ∧ (2 : Reg) ≠ 15 ∧
    (let s := regs [(1, 0xFF), (2, 1), (3, 0)]
     (s.reg 1).toNat + (s.reg 2).toNat = 256 ∧ (s.reg 1).toNat + (s.reg 3).toNat = 255) := by decide

/-- The premises z ≠ x, z ≠ 15 and x ≠ 15 of the register frames of LoadImmediate, AddImmediateWraps, CopyRegister, LogicIsBitwise,
ShiftsInPlace, RandomUnderMask, AddToIndex, DrawFlipsCoveredPixels and TimerMoves, at both ends of the register file. -/
theorem witness_register_frames : (0 : Reg) ≠ 15 ∧ (15 : Reg) ≠ 0 ∧ (14 : Reg) ≠ 15 ∧ (14 : Reg) ≠ 0 := by decide

/-- Both address clauses of ResetValues, at the bytes next to the font. -/
theorem witness_ResetValues : (0x04F < 0x050 ∨ 0x0A0 ≤ 0x04F) ∧ (0x0A0 < 0x050 ∨ 0x0A0 ≤ 0x0A0) := by decide

/-- The edge of the borrow: equal operands, and one less. -/
theorem witness_SubtractSetsNoBorrow :
    (1 : Reg) ≠ 15 ∧ (let s := regs [(1, 7), (2, 7), (3, 8)]
      (s.reg 1).toNat ≥ (s.reg 2).toNat ∧ ¬ (s.reg 1).toNat ≥ (s.reg 3).toNat) := by decide

theorem witness_LegacyShiftsTakeVy :
    ({ hardware with shiftQuirk := .legacy } : Config.Params).shiftQuirk = .legacy ∧ (1 : Reg) ≠ 15 := by decide

/-- The 16-bit variant, and both flag cases at their edge. -/
theorem witness_AddToIndex :
    ({ hardware with indexWrap := .bits16 } : Config.Params).indexWrap = .bits16 ∧
    (let s := (regs [(1, 1), (2, 0)]).setI 0xFFF
     s.i.toNat + (s.reg 1).toNat > 0xFFF ∧ ¬ s.i.toNat + (s.reg 2).toNat > 0xFFF) := by decide

/-- The last place where FX33 fits, with the bytes on both sides of the stored ones. -/
theorem witness_StoreDecimalDigits : nearTop.i.toNat + 3 ≤ 4096 ∧ 0xFFC < nearTop.i.toNat ∧ nearTop.i.toNat + 3 ≤ 0x1000 := by decide

/-- The last place where a run of three registers fits. -/
theorem witness_SpillStoresRegisters : nearTop.i.toNat + (2 : Reg).val + 1 ≤ 4096 ∧ (2 : Reg) ≤ 2 := by decide

theorem witness_FillLoadsRegisters : nearTop.i.toNat + (2 : Reg).val + 1 ≤ 4096 ∧ (2 : Reg) ≤ 2 ∧ (2 : Reg) < 3 := by decide

/-- The first places where the accesses do not fit, one for each clause. -/
theorem witness_IndexedAccessBeyondMemoryHalts :
    4096 < nearTop.i.toNat + (4 : BitVec 4).toNat ∧ 4096 < (State.reset.setI 0xFFE).i.toNat + 3 ∧
      4096 < nearTop.i.toNat + (3 : Reg).val + 1 := by decide

/-- A sprite of three bytes that just fits; it covers pixel (0, 0) when its first byte has bit 7 set, and not pixel (0, 8). -/
theorem witness_DrawFlipsCoveredPixels :
    let s := put (State.reset.setI 0xFFD) 0xFFD [0x80]
    s.i.toNat + (3 : BitVec 4).toNat ≤ 4096 ∧ SpriteCovers s 0 0 3 0 0 ∧ ¬ SpriteCovers s 0 0 3 0 8 ∧ s.pixel 0 0 = false := by
  refine ⟨by decide, ⟨0, 0, by decide, by decide, by decide, by decide, by decide⟩, ?_, by decide⟩
  rintro ⟨k, j, -, hj, -, -, hc⟩
  have : (8 : Fin 64).val = 8 := rfl
  have hv : ((put (State.reset.setI 0xFFD) 0xFFD [0x80]).reg 0).toNat = 0 := by decide
  rw [hv] at hc
  omega

/-- A collision: a covered pixel that is on. -/
theorem witness_DrawFlipsCoveredPixels_collision :
    let s := put ({ State.reset with fb := (Vector.replicate 32 0).set 0 0x8000000000000000 }.setI 0x300) 0x300 [0x80]
    s.i.toNat + (1 : BitVec 4).toNat ≤ 4096 ∧ ∃ r c, SpriteCovers s 0 0 1 r c ∧ s.pixel r c = true :=
  ⟨by decide, 0, 0, ⟨0, 0, by decide, by decide, by decide, by decide, by decide⟩, by decide⟩

theorem witness_DrawTwiceRestores :
    ∃ t, exec (.drw 0 1 3) nearTop = .next t ∧ nearTop.i.toNat + (3 : BitVec 4).toNat ≤ 4096 ∧ t.i = nearTop.i ∧
      (∀ a, t.mem.readByte a = nearTop.mem.readByte a) ∧ t.reg 0 = nearTop.reg 0 ∧ t.reg 1 = nearTop.reg 1 :=
  ⟨_, rfl, by decide, rfl, fun _ => rfl, by decide, by decide⟩

theorem witness_ClippedDrawDropsPixels :
    let s := put (State.reset.setI 0xFFF) 0xFFF [0x80]
    ({ hardware with drawEdge := .clip } : Config.Params).drawEdge = .clip ∧ s.i.toNat + (1 : BitVec 4).toNat ≤ 4096 ∧
      SpriteCoversClipped s 0 0 1 0 0 :=
  ⟨rfl, by decide, 0, 0, by decide, by decide, by decide, by decide, by decide⟩

theorem witness_TicksFloorAtZero : State.reset.mode = .running := rfl

/-- The longest image that fits, the first that does not, and the clauses over its bytes and the addresses around it. -/
theorem witness_LoadPlacesImage :
    State.reset.mode = .running ∧ (List.replicate 3584 (0x12 : Byte)).length ≤ 3584 ∧
      3584 < (List.replicate 3585 (0x12 : Byte)).length ∧ ([0x12, 0x34] : List Byte)[1]? = some 0x34 :=
  ⟨rfl, by rw [List.length_replicate], by rw [List.length_replicate]; decide, rfl⟩

theorem witness_HaltedFreezesHostOperations : stopped.mode = .halted ∧ HostOp.tick ≠ .reset := by decide

theorem witness_TerminalLoopIsFinal : TerminalLoop (State.reset.withFetchWord 16 0x1200) :=
  ⟨by decide, 0x200, by decide, by decide, by decide⟩

end Sys2Proof.Tests
end

section
/-! SUPPORT. Proofs of the statements about the state: who writes what, the canonical form of memory, the invariant over a step,
the key snapshot, and the values at reset (10_state.md). -/

namespace Sys2Proof
namespace Machine

open Sys2Proof.Safety

/-! ### Who writes what

Each frame is read off `exec_cases`: a raise keeps every field but MODE and FAULT, the named writers are set apart, and for the
others the field lemmas of the updates close the case. `Bool.exists_bool` is kept out of simp, since it would split an unnamed
flag into two states. -/

/-- An instruction other than the two stores leaves the list of memory cells itself. -/
theorem exec_mem {i : Instr} {s t : State} (h : exec i s = .next t) (hB : ∀ x, i ≠ .ldB x) (hS : ∀ x, i ≠ .spill x) :
    t.mem = s.mem := by
  obtain ⟨c, w, -, rfl⟩ | he := exec_cases h
  · rfl
  · revert he
    cases i with
    | ldB x => exact absurd rfl (hB x)
    | spill x => exact absurd rfl (hS x)
    | _ => simp +contextual [-Bool.exists_bool]

/-- Settles O18: equal cells read alike. -/
theorem onlyStoresWriteMemory : Obligations.OnlyStoresWriteMemory := by
  intro i s t h hB hS a
  rw [exec_mem h hB hS]

/-- Settles O19. -/
theorem onlyCallAndReturnTouchStack : Obligations.OnlyCallAndReturnTouchStack := by
  intro i s t h hcall hret
  obtain ⟨c, w, -, rfl⟩ | he := exec_cases h
  · rfl
  · revert he
    cases i with
    | call nnn => exact absurd rfl (hcall nnn)
    | ret => exact absurd rfl hret
    | _ => simp +contextual [-Bool.exists_bool]

/-- Settles O21. -/
theorem onlyIndexInstructionsWriteI : Obligations.OnlyIndexInstructionsWriteI := by
  intro i s t h hldI haddI hldF
  obtain ⟨c, w, -, rfl⟩ | he := exec_cases h
  · rfl
  · revert he
    cases i with
    | ldI nnn => exact absurd rfl (hldI nnn)
    | addI x => exact absurd rfl (haddI x)
    | ldF x => exact absurd rfl (hldF x)
    | _ => simp +contextual [-Bool.exists_bool]

/-- Settles O22: each timer has its one writer, and the other timer is left by it. -/
theorem onlyTimerInstructionsWriteTimers : Obligations.OnlyTimerInstructionsWriteTimers := by
  intro i s t h
  obtain ⟨c, w, -, rfl⟩ | he := exec_cases h
  · exact ⟨fun _ => rfl, fun _ => rfl⟩
  · revert he
    cases i with
    | ldDtVx x => dsimp only; rintro rfl; exact ⟨fun hne => absurd rfl (hne x), fun _ => rfl⟩
    | ldStVx x => dsimp only; rintro rfl; exact ⟨fun _ => rfl, fun hne => absurd rfl (hne x)⟩
    | _ => simp +contextual [-Bool.exists_bool]

/-- Settles O23: 00E0 and DXYN go through `setFb`, which sets DIRTY; a raise leaves the machine Halted. -/
theorem onlyDisplayInstructionsTouchPicture : Obligations.OnlyDisplayInstructionsTouchPicture := by
  intro i s t _ h
  obtain ⟨c, w, -, rfl⟩ | he := exec_cases h
  · exact ⟨fun _ _ => ⟨rfl, rfl⟩, by simp⟩
  · revert he
    cases i with
    | cls => dsimp only; rintro rfl; exact ⟨fun hne => absurd rfl hne, fun _ _ => rfl⟩
    | drw x y n => rintro ⟨fb, f, rfl⟩; exact ⟨fun _ hne => absurd rfl (hne x y n), fun _ _ => rfl⟩
    | _ => simp +contextual [-Bool.exists_bool]

/-- A register run leaves every register past its end (R145). -/
theorem State.reg_setRegRun_of_le {s : State} {bs : List Byte} {z : Reg} (h : bs.length ≤ z.val) :
    (s.setRegRun bs).reg z = s.reg z := by
  simp [State.reg_setRegRun, h]

/-- Settles O24. -/
theorem registersChangeOnlyAsNamed : Obligations.RegistersChangeOnlyAsNamed := by
  intro i s t z h hdest hflag
  obtain ⟨c, w, -, rfl⟩ | he := exec_cases h
  · rfl
  · revert hdest hflag he
    cases i with
    | fill x =>
      rintro hdest - ⟨bs, hlen, rfl⟩
      have hz : x.val < z.val := by simpa [isDestination] using hdest
      exact State.reg_setRegRun_of_le (by omega)
    | _ =>
      simp +contextual [-Bool.exists_bool, isDestination, writesFlag, State.reg_setReg, State.reg_setResult, State.reg_setFlag]

/-! ### The canonical form of memory -/

/-- Below its first address a memory reads as the background (R33). -/
theorem Memory.readByte_of_lt_risingFrom {m : Memory} {lo a : Nat} (h : risingFrom lo m = true) (ha : a < lo) :
    m.readByte a = background a := by
  induction m generalizing lo with
  | nil => rfl
  | cons c rest ih =>
    simp only [risingFrom, Bool.and_eq_true, decide_eq_true_eq] at h
    obtain ⟨hlo, hrest⟩ := h
    have hne : c.1 ≠ a := by omega
    simpa [readByte, hne] using ih hrest (by omega)

theorem Memory.readByte_head (c : Host.Cell) (rest : Memory) : readByte (c :: rest) c.1 = c.2 := by
  simp [readByte]

/-- A memory that reads like one beginning with the cell `c` cannot begin above `c`: it would read the background there. -/
theorem Memory.le_head_of_readByte_eq {c : Host.Cell} {rest m : Memory} {lo : Nat} (hc : cellOk c = true)
    (hm : risingFrom lo m = true) (h : ∀ a, readByte (c :: rest) a = m.readByte a) : lo ≤ c.1 := by
  by_contra hlt
  have hback : c.2 = background c.1 := by
    rw [← readByte_head c rest, h, readByte_of_lt_risingFrom hm (by omega)]
  simp [cellOk, hback] at hc

/-- Memories that begin with the same cell and read alike go on alike: at that cell's address both tails read the background. -/
theorem Memory.readByte_tail_eq {c : Host.Cell} {rest rest' : Memory} (hr : risingFrom (c.1 + 1) rest = true)
    (hr' : risingFrom (c.1 + 1) rest' = true) (h : ∀ a, readByte (c :: rest) a = readByte (c :: rest') a) (a : Nat) :
    rest.readByte a = rest'.readByte a := by
  by_cases ha : c.1 = a
  · have hlt : a < c.1 + 1 := by omega
    rw [readByte_of_lt_risingFrom hr hlt, readByte_of_lt_risingFrom hr' hlt]
  · simpa [readByte, ha] using h a

/-- Rising lists of cells that differ from the background are determined by what they read as: neither can begin above the
other, so the heads agree, and then so do the tails. -/
theorem Memory.eq_of_readByte_eq {lo lo' : Nat} {m m' : Memory} (hm : risingFrom lo m = true) (hm' : risingFrom lo' m' = true)
    (hok : ∀ c ∈ m, cellOk c = true) (hok' : ∀ c ∈ m', cellOk c = true) (h : ∀ a, m.readByte a = m'.readByte a) :
    m = m' := by
  induction m generalizing lo lo' m' with
  | nil =>
    cases m' with
    | nil => rfl
    | cons c' rest' =>
      have hlt : c'.1 + 1 ≤ c'.1 := le_head_of_readByte_eq (m := []) (hok' c' (by simp)) rfl (fun a => (h a).symm)
      omega
  | cons c rest ih =>
    cases m' with
    | nil =>
      have hlt : c.1 + 1 ≤ c.1 := le_head_of_readByte_eq (m := []) (hok c (by simp)) rfl h
      omega
    | cons c' rest' =>
      simp only [risingFrom, Bool.and_eq_true, decide_eq_true_eq] at hm hm'
      obtain ⟨-, hr⟩ := hm
      obtain ⟨-, hr'⟩ := hm'
      have hle : c'.1 ≤ c.1 := le_head_of_readByte_eq (hok c (by simp)) (by simpa [risingFrom] using hr') h
      have hge : c.1 ≤ c'.1 :=
        le_head_of_readByte_eq (hok' c' (by simp)) (by simpa [risingFrom] using hr) (fun a => (h a).symm)
      have haddr : c.1 = c'.1 := by omega
      have hbyte : c.2 = c'.2 := by rw [← readByte_head c rest, h, haddr, readByte_head]
      obtain rfl : c = c' := Prod.ext haddr hbyte
      rw [ih hr hr' (fun d hd => hok d (by simp [hd])) (fun d hd => hok' d (by simp [hd])) (readByte_tail_eq hr hr' h)]

/-- Settles O16. -/
theorem canonicalMemoriesExtensional : Obligations.CanonicalMemoriesExtensional := by
  intro m m' hm hm' h
  obtain ⟨hrise, hok⟩ := Memory.wf_iff.1 hm
  obtain ⟨hrise', hok'⟩ := Memory.wf_iff.1 hm'
  exact Memory.eq_of_readByte_eq hrise hrise' hok hok' h

/-! ### The invariant over a step, clause by clause -/

/-- A store at I is checked as a whole, so what it writes lies inside the address space (R55). -/
theorem storeAtI_keeps_wf {s t : State} {bs : List Byte} (h : storeAtI bs s = .next t) (hs : s.mem.wf = true) :
    t.mem.wf = true := by
  obtain ⟨hle, rfl⟩ | rfl := storeAtI_next h
  · exact Memory.wf_writeBytes hs hle
  · exact hs

theorem exec_keeps_wf {i : Instr} {s t : State} (h : exec i s = .next t) (hs : s.mem.wf = true) : t.mem.wf = true := by
  cases i with
  | ldB x => exact storeAtI_keeps_wf h hs
  | spill x => exact storeAtI_keeps_wf h hs
  | _ => rw [exec_mem h (by simp) (by simp)]; exact hs

/-- I stays within 12 bits (R22): ANNN has a 12-bit operand, FX1E reduces modulo 4096, and the last glyph of FX29 is at 0x54B. -/
theorem exec_index_le {i : Instr} {s t : State} (h : exec i s = .next t) (hs : s.i.toNat ≤ 0xFFF) : t.i.toNat ≤ 0xFFF := by
  cases i with
  | ldI nnn => cases h; simp [toNat_immAddr]; omega
  | addI x => cases h; simp [hardware, toNat_indexSum]; omega
  | ldF x => cases h; simp [toNat_glyphAddr]; omega
  | _ => rw [onlyIndexInstructionsWriteI _ _ _ h (by simp) (by simp) (by simp)]; exact hs

/-- PC of a fetched instruction is at most 0xFFE, so it leaves at most 0xFFF + 0xFF in PC, which BNNN reaches (R117). -/
theorem exec_pc_le {i : Instr} {s t : State} (h : exec i s = .next t) (hpc : s.pc.toNat ≤ 0xFFE)
    (hret : ∀ a ∈ s.stack, a.toNat ≤ 0x1000) : t.pc.toNat ≤ 0x10FE := by
  obtain ⟨c, w, -, rfl⟩ | he := exec_cases h
  · simp; omega
  · cases i with
    | ret => obtain ⟨a, rest, hstack, rfl⟩ := he; have := hret a (by simp [hstack]); simp; omega
    | jp nnn => cases he; simp [toNat_immAddr]; omega
    | call nnn => obtain ⟨-, rfl⟩ := he; simp [toNat_immAddr]; omega
    | jpV0 nnn => cases he; simp [toNat_offsetAddr]; omega
    | seImm | sneImm | seReg | sneReg => obtain ⟨c, rfl⟩ := he; cases c <;> simp <;> omega
    | skp | sknp | ldVxK => cases he
    | _ => revert he; simp +contextual [-Bool.exists_bool]; omega

/-- A return address is p + 2 of a fetched 2NNN, so at most 0x1000, and 2NNN pushes below 16 only (R25, D5). -/
theorem exec_stack_bounds {i : Instr} {s t : State} (h : exec i s = .next t) (hpc : s.pc.toNat ≤ 0xFFE)
    (hdepth : s.stack.length ≤ 16) (hret : ∀ a ∈ s.stack, a.toNat ≤ 0x1000) :
    t.stack.length ≤ 16 ∧ ∀ a ∈ t.stack, a.toNat ≤ 0x1000 := by
  cases i with
  | call nnn =>
    obtain ⟨hlt, rfl⟩ | rfl := callTo_next h
    · have hpush : (s.pc + 2).toNat ≤ 0x1000 := by simp; omega
      exact ⟨hlt, List.forall_mem_cons.2 ⟨hpush, hret⟩⟩
    · exact ⟨hdepth, hret⟩
  | ret =>
    obtain ⟨a, rest, hstack, rfl⟩ | rfl := execRet_next h
    · rw [hstack] at hdepth hret
      exact ⟨Nat.le_of_succ_le hdepth, (List.forall_mem_cons.1 hret).2⟩
    · exact ⟨hdepth, hret⟩
  | _ => rw [onlyCallAndReturnTouchStack _ _ _ h (by simp) (by simp)]; exact ⟨hdepth, hret⟩

/-- An instruction raises, with a cause, or leaves MODE and FAULT (R196). -/
theorem exec_halts_or_keeps_mode {i : Instr} {s t : State} (h : exec i s = .next t) :
    (∃ c w, c ≠ .none ∧ t = s.halt c s.pc w) ∨ (t.mode = s.mode ∧ t.fault = s.fault) := by
  refine (exec_cases h).imp_right fun he => ?_
  revert he
  cases i <;> simp +contextual [-Bool.exists_bool]

theorem inv_halt {s : State} (hs : Inv s) {c : Cause} (hc : c ≠ .none) (w : Word) : Inv (s.halt c s.pc w) where
  memory := hs.memory
  index := hs.index
  pc := hs.pc
  depth := hs.depth
  returns := hs.returns
  running := by simp
  halted := fun _ => hc
  faultPc := hs.pc

/-- A fetched instruction keeps the invariant. -/
theorem exec_keeps_inv {i : Instr} {s t : State} (hs : Inv s) (hpc : s.pc.toNat ≤ 0xFFE) (h : exec i s = .next t) :
    Inv t := by
  obtain ⟨c, w, hc, rfl⟩ | ⟨hmode, hfault⟩ := exec_halts_or_keeps_mode h
  · exact inv_halt hs hc w
  · obtain ⟨hdepth, hreturns⟩ := exec_stack_bounds h hpc hs.depth hs.returns
    exact {
      memory := exec_keeps_wf h hs.memory
      index := exec_index_le h hs.index
      pc := exec_pc_le h hpc hs.returns
      depth := hdepth
      returns := hreturns
      running := by rw [hmode, hfault]; exact hs.running
      halted := by rw [hmode, hfault]; exact hs.halted
      faultPc := by rw [hfault]; exact hs.faultPc }

/-- A step keeps the invariant when the instruction it runs does. -/
theorem stepBy_keeps_inv {run : Instr → State → Host.Outcome State Fault Refusal} {s t : State} (hs : Inv s)
    (hrun : ∀ i, s.pc.toNat ≤ 0xFFE → run i s = .next t → Inv t) (h : stepBy run s = .next t) : Inv t := by
  obtain ⟨-, e⟩ | ⟨-, -, e⟩ | ⟨w, r, -, -, -, e⟩ | ⟨w, i, -, hfetch, -, e⟩ := stepBy_cases run s <;> rw [e] at h
  · cases h; exact hs
  · cases h; exact inv_halt hs (by simp) s.pc
  · cases h; exact inv_halt hs (by simp) w
  · exact hrun i (State.fetchWord_eq_some.1 hfetch).1 h

/-- Settles O12: a fetched instruction has PC at most 0xFFE, which is what its clauses on PC and return addresses need. -/
theorem stepKeepsInvariant : Obligations.StepKeepsInvariant :=
  fun _ _ hs h => stepBy_keeps_inv hs (fun _ hpc he => exec_keeps_inv hs hpc he) h

/-- Settles O13. -/
theorem resetMeetsInvariant : Obligations.ResetMeetsInvariant where
  memory := reset_memory_wf
  index := by decide
  pc := by decide
  depth := by decide
  returns := by simp [State.reset]
  running := fun _ => rfl
  halted := by simp [State.reset]
  faultPc := by decide

/-! ### The key snapshot: another value of K goes unnoticed through every operation -/

/-- The state with another key snapshot. -/
def State.withKeys (s : State) (k : BitVec 16) : State := { s with keys := k }

@[simp] theorem State.i_withKeys (s : State) (k : BitVec 16) : (s.withKeys k).i = s.i := rfl
@[simp] theorem State.stack_withKeys (s : State) (k : BitVec 16) : (s.withKeys k).stack = s.stack := rfl
@[simp] theorem State.mode_withKeys (s : State) (k : BitVec 16) : (s.withKeys k).mode = s.mode := rfl
@[simp] theorem State.mem_withKeys (s : State) (k : BitVec 16) : (s.withKeys k).mem = s.mem := rfl
@[simp] theorem State.fetchWord_withKeys (s : State) (k : BitVec 16) : (s.withKeys k).fetchWord = s.fetchWord := rfl

theorem State.skipIf_withKeys (s : State) (k : BitVec 16) (c : Bool) : (s.withKeys k).skipIf c = (s.skipIf c).withKeys k := by
  cases c <;> rfl

/-- An outcome with the next state replaced by its image. -/
def mapNext (f : State → State) : Host.Outcome State Fault Refusal → Host.Outcome State Fault Refusal
  | .next s => .next (f s)
  | .fault r => .fault r
  | .refused r => .refused r

theorem execRet_withKeys (s : State) (k : BitVec 16) : execRet (s.withKeys k) = mapNext (·.withKeys k) (execRet s) := by
  simp only [execRet, State.pop, State.stack_withKeys]
  cases s.stack <;> rfl

theorem callTo_withKeys (d : Nat) (nnn : BitVec 12) (s : State) (k : BitVec 16) :
    callTo d nnn (s.withKeys k) = mapNext (·.withKeys k) (callTo d nnn s) := by
  simp only [callTo, State.push, State.stack_withKeys]
  by_cases h : s.stack.length < d <;> simp only [h, if_true, if_false] <;> rfl

theorem draw_withKeys (e : Config.DrawEdge) (x y : Reg) (n : BitVec 4) (s : State) (k : BitVec 16) :
    draw e x y n (s.withKeys k) = mapNext (·.withKeys k) (draw e x y n s) := by
  simp only [draw, State.mem_withKeys, State.i_withKeys]
  cases s.mem.readRange s.i.toNat n.toNat <;> rfl

theorem storeAtI_withKeys (bs : List Byte) (s : State) (k : BitVec 16) :
    storeAtI bs (s.withKeys k) = mapNext (·.withKeys k) (storeAtI bs s) := by
  simp only [storeAtI, State.mem_withKeys, State.i_withKeys]
  cases s.mem.writeRange s.i.toNat bs <;> rfl

theorem execFill_withKeys (x : Reg) (s : State) (k : BitVec 16) :
    execFill x (s.withKeys k) = mapNext (·.withKeys k) (execFill x s) := by
  simp only [execFill, State.mem_withKeys, State.i_withKeys]
  cases s.mem.readRange s.i.toNat (x.val + 1) <;> rfl

theorem execWith_withKeys (p : Config.Params) (r : Byte) (i : Instr) (s : State) (k : BitVec 16) :
    execWith p r i (s.withKeys k) = mapNext (·.withKeys k) (execWith p r i s) := by
  cases i with
  | ret => exact execRet_withKeys s k
  | call nnn => exact callTo_withKeys p.stackDepth nnn s k
  | seImm | sneImm | seReg | sneReg => exact congrArg Host.Outcome.next (State.skipIf_withKeys s k _)
  | drw x y n => exact draw_withKeys p.drawEdge x y n s k
  | ldB x => exact storeAtI_withKeys _ s k
  | spill x => exact storeAtI_withKeys _ s k
  | fill x => exact execFill_withKeys x s k
  | _ => rfl

theorem stepWith_withKeys (p : Config.Params) (r : Byte) (s : State) (k : BitVec 16) :
    stepWith p r (s.withKeys k) = mapNext (·.withKeys k) (stepWith p r s) := by
  simp only [stepWith, stepBy, State.mode_withKeys, State.fetchWord_withKeys, execWith_withKeys]
  cases s.mode with
  | halted => rfl
  | running =>
    cases s.fetchWord with
    | none => rfl
    | some w => dsimp only; cases decode w <;> rfl

theorem loadOp_withKeys (bytes : List Byte) (s : State) (k : BitVec 16) :
    loadOp bytes (s.withKeys k) = (loadOp bytes s).withKeys k := by
  simp only [loadOp, State.mode_withKeys, State.mem_withKeys]
  cases s.mode with
  | halted => rfl
  | running => cases s.mem.writeRange Config.programBase bytes <;> rfl

theorem tickOp_withKeys (s : State) (k : BitVec 16) : tickOp (s.withKeys k) = (tickOp s).withKeys k := by
  simp only [tickOp, State.mode_withKeys]
  cases s.mode <;> rfl

theorem publishOp_withKeys (s : State) (k : BitVec 16) : publishOp (s.withKeys k) = (publishOp s).withKeys k := by
  simp only [publishOp, State.mode_withKeys]
  cases s.mode <;> rfl

/-- SetKeys overwrites K in Running and leaves it in Halted (R173, R178). -/
theorem setKeysOp_withKeys (mask : BitVec 16) (s : State) (k : BitVec 16) :
    ∃ k', setKeysOp mask (s.withKeys k) = (setKeysOp mask s).withKeys k' := by
  simp only [setKeysOp, State.mode_withKeys]
  cases s.mode with
  | halted => exact ⟨k, rfl⟩
  | running => exact ⟨mask, rfl⟩

/-- Reset and SetKeys overwrite K; every other operation carries it along. -/
theorem hostOp_withKeys {p : Config.Params} {op : HostOp} {s t : State} (k : BitVec 16) (h : hostOp p op s = .next t) :
    ∃ k', hostOp p op (s.withKeys k) = .next (t.withKeys k') := by
  cases op with
  | reset => cases h; exact ⟨0, rfl⟩
  | load bytes => cases h; exact ⟨k, congrArg _ (loadOp_withKeys bytes s k)⟩
  | setKeys mask =>
    cases h
    obtain ⟨k', hk⟩ := setKeysOp_withKeys mask s k
    exact ⟨k', congrArg _ hk⟩
  | step r => exact ⟨k, (stepWith_withKeys p r s k).trans (congrArg (mapNext _) h)⟩
  | tick => cases h; exact ⟨k, congrArg _ (tickOp_withKeys s k)⟩
  | publish => cases h; exact ⟨k, congrArg _ (publishOp_withKeys s k)⟩
  | dump => cases h; exact ⟨k, rfl⟩

/-- A session that ends in a state goes through a next state of its first operation. -/
theorem session_cons {p : Config.Params} {op : HostOp} {ops : List HostOp} {stepped : Bool} {s t : State} :
    session p (op :: ops) stepped s = .next t ↔
      loadTooLate stepped op s = false ∧ ∃ u, hostOp p op s = .next u ∧ session p ops (steppedAfter stepped op) u = .next t := by
  rw [session]
  cases loadTooLate stepped op s <;> cases hostOp p op s <;> simp

theorem session_withKeys {p : Config.Params} {ops : List HostOp} {stepped : Bool} {s t : State} (k : BitVec 16)
    (h : session p ops stepped s = .next t) : ∃ k', session p ops stepped (s.withKeys k) = .next (t.withKeys k') := by
  induction ops generalizing stepped s k with
  | nil => cases h; exact ⟨k, rfl⟩
  | cons op ops ih =>
    obtain ⟨hlate, u, hop, hrest⟩ := session_cons.1 h
    obtain ⟨k₁, hop'⟩ := hostOp_withKeys k hop
    obtain ⟨k₂, hrest'⟩ := ih k₁ hrest
    exact ⟨k₂, session_cons.2 ⟨hlate, _, hop', hrest'⟩⟩

/-- Settles O25. -/
theorem keysInfluenceNothing : Obligations.KeysInfluenceNothing := fun _ _ _ _ k h => session_withKeys k h

/-! ### The values at reset -/

theorem Memory.background_outside_font {a : Nat} (h : a < 0x050 ∨ 0x0A0 ≤ a) : background a = 0 := by
  unfold background
  split
  · rfl
  · have hlen : hardware.font.toList.length ≤ a - Config.fontBase := by
      simp only [Vector.length_toList, Config.fontBase] at *; omega
    rw [List.getD_eq_default _ _ hlen]

theorem Memory.background_font (k : Fin 80) : background (0x050 + k.val) = hardware.font.get k := by
  simp [background, Config.fontBase, Vector.get_eq_getElem]

/-- Settles O56: memory at reset lists no cell, so every address reads the background (R33, log entry 15). -/
theorem resetValues : Obligations.ResetValues :=
  ⟨rfl, rfl, rfl, fun _ => Memory.background_outside_font, Memory.background_font, fun z => by simp [State.reset, State.reg],
    rfl, rfl, rfl, rfl, fun r c => by simp [State.reset, State.pixel], rfl, rfl⟩

end Machine
end Sys2Proof
end

section
/-! SUPPORT. Proofs of the statements about memory and the fetch: ranges read back, stored bytes are fetched, and a step runs
the word at PC (20_memory.md). -/

namespace Sys2Proof
namespace Machine

/-! ### Ranges -/

theorem Memory.readByte_writeBytes_outside {m : Memory} {p a : Nat} {bs : List Byte} (h : a < p ∨ p + bs.length ≤ a) :
    (m.writeBytes p bs).readByte a = m.readByte a := by
  rw [readByte_writeBytes]
  split
  · next hle => rw [List.getElem?_eq_none (by omega), Option.getD_none]
  · rfl

/-- The byte written at place `k` of a run is the one read there. -/
theorem Memory.readByte_writeBytes_add {m : Memory} {p k : Nat} {bs : List Byte} {b : Byte} (h : bs[k]? = some b) :
    (m.writeBytes p bs).readByte (p + k) = b := by
  simp [readByte_writeBytes, h]

theorem Memory.readBytes_writeBytes (m : Memory) (p : Nat) (bs : List Byte) :
    (m.writeBytes p bs).readBytes p bs.length = bs := by
  apply List.ext_getElem?
  intro k
  rw [getElem?_readBytes]
  split
  · next hk => rw [List.getElem?_eq_getElem hk, readByte_writeBytes_add (List.getElem?_eq_getElem hk)]
  · next hk => rw [List.getElem?_eq_none (by omega)]

/-- Settles O15. -/
theorem rangeReadsBack : Obligations.RangeReadsBack := by
  intro m m' p bytes h
  obtain ⟨hle, rfl, -⟩ := Memory.writeRange_some h
  refine ⟨?_, fun _ => Memory.readByte_writeBytes_outside⟩
  rw [Memory.readRange, if_pos hle, Memory.readBytes_writeBytes]

/-! ### Stores at I, and the fetch after them -/

/-- A store at I that stays in memory completes (R55, R146). -/
theorem storeAtI_of_le {s : State} {bs : List Byte} (h : s.i.toNat + bs.length ≤ 4096) :
    storeAtI bs s = .next (s.setMem (s.mem.writeBytes s.i.toNat bs)).advance := by
  obtain ⟨-, e⟩ | ⟨hlt, -⟩ := storeAtI_cases bs s
  · exact e
  · omega

/-- FX55 that stays in memory completes, with V0 to Vx written from I up (R144). -/
theorem exec_spill_of_le {x : Reg} {s : State} (h : s.i.toNat + x.val + 1 ≤ 4096) :
    exec (.spill x) s = .next (s.setMem (s.mem.writeBytes s.i.toNat (s.regRun x))).advance :=
  storeAtI_of_le (by simpa [Nat.add_assoc] using h)

/-- The run that FX55 stores reads back register for register (R144). -/
theorem readByte_writeBytes_regRun (m : Memory) (p : Nat) {s : State} {x z : Reg} (h : z ≤ x) :
    (m.writeBytes p (s.regRun x)).readByte (p + z.val) = s.reg z :=
  Memory.readByte_writeBytes_add (State.getElem?_regRun s x z h)

/-- Settles O17: the fetch reads the memory that FX55 has just written, register for register. -/
theorem spilledBytesAreFetched : Obligations.SpilledBytesAreFetched := by
  intro s t x z z' q hx h hz hz' hq hq'
  rw [exec_spill_of_le hx] at h
  cases h
  have hle : z'.val ≤ x.val := hz'
  refine State.fetchWord_eq_some.2 ⟨show q.toNat ≤ 0xFFE by omega, ?_⟩
  simp only [State.mem_advance, State.mem_setMem]
  rw [hq', hq, readByte_writeBytes_regRun _ _ hz, readByte_writeBytes_regRun _ _ hz']

/-! ### The step runs the word at PC -/

/-- The fetch gives the word that the two bytes at PC make as a number, high byte first (R56, R57). -/
theorem State.fetchWord_of_toNat_eq {s : State} {w : Word} (hpc : s.pc.toNat ≤ 0xFFE)
    (hw : w.toNat = 256 * (s.mem.readByte s.pc.toNat).toNat + (s.mem.readByte (s.pc.toNat + 1)).toNat) :
    s.fetchWord = some w :=
  fetchWord_eq_some.2 ⟨hpc, BitVec.eq_of_toNat_eq (by rw [hw, toNat_wordOfBytes])⟩

/-- A running machine runs the instruction that its fetched word decodes to (R100). -/
theorem stepBy_of_fetch_decode {run : Instr → State → Host.Outcome State Fault Refusal} {s : State} {w : Word} {i : Instr}
    (hmode : s.mode = .running) (hfetch : s.fetchWord = some w) (hdecode : decode w = .ok i) :
    stepBy run s = run i s := by
  simp [stepBy, hmode, hfetch, hdecode]

/-- Settles O6. -/
theorem stepRunsDecodedInstruction : Obligations.StepRunsDecodedInstruction :=
  fun _ _ _ hmode hpc hw hdecode => stepBy_of_fetch_decode hmode (State.fetchWord_of_toNat_eq hpc hw) hdecode

end Machine
end Sys2Proof
end

section
/-! SUPPORT. Proofs of the statements about the encoding (30_encoding.md): decode and encode are inverse, the decoder follows the
opcode map, the illegal words are those of R86, and a step always answers a next state. -/

namespace Sys2Proof

/-! ### Decoding an encoded instruction -/

/-- Settles O1, format by format (R82): the fields of the encoded word choose the decoder's branch and are its operands. -/
theorem decodeEncodeRoundTrip : Obligations.DecodeEncodeRoundTrip := by
  intro i
  cases i with
  | cls | ret => rfl
  | jp | call | ldI | jpV0 => simp [encode, decode, nibble0_formatA, fieldNNN_formatA]
  | seImm | sneImm | ldImm | addImm | rnd =>
    simp [encode, decode, nibble0_formatI, fieldX_formatI, fieldNN_formatI]
  | seReg | sneReg | drw | ldReg | orReg | andReg | xorReg | addReg | subReg | shr | subn | shl =>
    simp [encode, decode, decode5, decode8, decode9, nibble0_formatR, fieldX_formatR, fieldY_formatR, nibble3_formatR]
  | skp | sknp | ldVxDt | ldVxK | ldDtVx | ldStVx | addI | ldF | ldB | spill | fill =>
    simp [encode, decode, decodeE, decodeF, nibble0_formatF, fieldX_formatF, fieldNN_formatF]

/-! ### Encoding a decoded word

A word whose constant fields have the values of a format (R82) is that format at the word's own operand fields. -/

section
variable {w : Word} {op f : BitVec 4} {ff : Byte}

theorem formatA_fields (h : (nibble0 w).toNat = op.toNat) : formatA op (fieldNNN w) = w := by
  rw [← BitVec.eq_of_toNat_eq h]
  exact (wordA w).symm

theorem formatI_fields (h : (nibble0 w).toNat = op.toNat) : formatI op (fieldX w) (fieldNN w) = w := by
  rw [← BitVec.eq_of_toNat_eq h]
  exact (wordI w).symm

theorem formatR_fields (h : (nibble0 w).toNat = op.toNat) (hf : (nibble3 w).toNat = f.toNat) :
    formatR op (fieldX w) (fieldY w) f = w := by
  rw [← BitVec.eq_of_toNat_eq h, ← BitVec.eq_of_toNat_eq hf]
  exact (wordR w).symm

theorem formatF_fields (h : (nibble0 w).toNat = op.toNat) (hf : (fieldNN w).toNat = ff.toNat) :
    formatF op (fieldX w) ff = w := by
  rw [← BitVec.eq_of_toNat_eq h, ← BitVec.eq_of_toNat_eq hf]
  exact (wordI w).symm

end

theorem encode_of_decode0 {w : Word} {i : Instr} (h : decode0 w = .ok i) : encode i = w := by
  unfold decode0 at h
  split at h <;> cases h <;> exact BitVec.eq_of_toNat_eq (Eq.symm ‹_›)

theorem encode_of_decode5 {w : Word} {i : Instr} (h0 : (nibble0 w).toNat = 5) (h : decode5 w = .ok i) : encode i = w := by
  unfold decode5 at h
  split at h <;> cases h
  exact formatR_fields h0 ‹_›

theorem encode_of_decode8 {w : Word} {i : Instr} (h0 : (nibble0 w).toNat = 8) (h : decode8 w = .ok i) : encode i = w := by
  unfold decode8 at h
  split at h <;> cases h <;> exact formatR_fields h0 ‹_›

theorem encode_of_decode9 {w : Word} {i : Instr} (h0 : (nibble0 w).toNat = 9) (h : decode9 w = .ok i) : encode i = w := by
  unfold decode9 at h
  split at h <;> cases h
  exact formatR_fields h0 ‹_›

theorem encode_of_decodeE {w : Word} {i : Instr} (h0 : (nibble0 w).toNat = 14) (h : decodeE w = .ok i) : encode i = w := by
  unfold decodeE at h
  split at h <;> cases h <;> exact formatF_fields h0 ‹_›

theorem encode_of_decodeF {w : Word} {i : Instr} (h0 : (nibble0 w).toNat = 15) (h : decodeF w = .ok i) : encode i = w := by
  unfold decodeF at h
  split at h <;> cases h <;> exact formatF_fields h0 ‹_›

/-- Settles O2, along the branches of the decoder: in each, the word is put together again from its fields. -/
theorem encodeDecodeRoundTrip : Obligations.EncodeDecodeRoundTrip := by
  intro w i h
  unfold decode at h
  split at h
  case h_1 => exact encode_of_decode0 h
  case h_2 | h_3 | h_11 | h_12 => cases h; exact formatA_fields ‹_›
  case h_4 | h_5 | h_7 | h_8 | h_13 => cases h; exact formatI_fields ‹_›
  case h_6 h0 => exact encode_of_decode5 h0 h
  case h_9 h0 => exact encode_of_decode8 h0 h
  case h_10 h0 => exact encode_of_decode9 h0 h
  case h_14 h0 => cases h; exact formatR_fields h0 rfl
  case h_15 h0 => exact encode_of_decodeE h0 h
  case h_16 =>
    have h0 : (nibble0 w).toNat = 15 := by
      have := (nibble0 w).isLt
      simp only [imp_false] at *
      omega
    exact encode_of_decodeF h0 h

/-! ### The rows of the opcode map

A mask of R85 keeps the constant fields of a format and clears the operands, so a word of a row is the encoding of its own
operand fields. -/

section
variable {w : Word} {op f : BitVec 4} {ff : Byte}

theorem nibble0_of_mask (h : w &&& 0xF000 = formatA op 0) : nibble0 w = op := by
  rw [wordA w, mask_formatA] at h
  replace h : formatA (nibble0 w) 0 = formatA op 0 := h
  simpa only [nibble0_formatA] using congrArg nibble0 h

theorem formatA_fields_of_mask (h : w &&& 0xF000 = formatA op 0) : formatA op (fieldNNN w) = w :=
  formatA_fields (congrArg _ (nibble0_of_mask h))

theorem formatI_fields_of_mask (h : w &&& 0xF000 = formatA op 0) : formatI op (fieldX w) (fieldNN w) = w :=
  formatI_fields (congrArg _ (nibble0_of_mask h))

/-- Format D: the mask leaves n free (R82). -/
theorem formatR_fields_of_top_mask (h : w &&& 0xF000 = formatA op 0) :
    formatR op (fieldX w) (fieldY w) (nibble3 w) = w :=
  formatR_fields (congrArg _ (nibble0_of_mask h)) rfl

theorem formatR_fields_of_mask (h : w &&& 0xF00F = formatR op 0 0 f) : formatR op (fieldX w) (fieldY w) f = w := by
  rw [wordR w, mask_formatR] at h
  replace h : formatR (nibble0 w) 0 0 (nibble3 w) = formatR op 0 0 f := h
  have h0 := congrArg nibble0 h
  have h3 := congrArg nibble3 h
  simp only [nibble0_formatR, nibble3_formatR] at h0 h3
  exact formatR_fields (congrArg _ h0) (congrArg _ h3)

theorem formatF_fields_of_mask (h : w &&& 0xF0FF = formatF op 0 ff) : formatF op (fieldX w) ff = w := by
  rw [show w = formatF (nibble0 w) (fieldX w) (fieldNN w) from wordI w, mask_formatF] at h
  replace h : formatF (nibble0 w) 0 (fieldNN w) = formatF op 0 ff := h
  have h0 := congrArg nibble0 h
  have hff := congrArg fieldNN h
  simp only [nibble0_formatF, fieldNN_formatF] at h0 hff
  exact formatF_fields (congrArg _ h0) (congrArg _ hff)

end

/-- Every word of the row is the encoding of an instruction of the row's mnemonic. -/
def OpcodeRow.Encoded (r : OpcodeRow) : Prop :=
  ∀ w : Word, w &&& r.mask = r.pattern → ∃ i, encode i = w ∧ i.mnemonic = r.mnemonic

theorem opcodeMapLow_encoded : ∀ r ∈ opcodeMapLow, r.Encoded := by
  simp only [opcodeMapLow, List.forall_mem_cons]
  exact ⟨fun w h => ⟨.cls, (h.symm.trans (BitVec.and_allOnes)), rfl⟩,
    fun w h => ⟨.ret, (h.symm.trans (BitVec.and_allOnes)), rfl⟩,
    fun w h => ⟨.jp _, formatA_fields_of_mask h, rfl⟩,
    fun w h => ⟨.call _, formatA_fields_of_mask h, rfl⟩,
    fun w h => ⟨.seImm _ _, formatI_fields_of_mask h, rfl⟩,
    fun w h => ⟨.sneImm _ _, formatI_fields_of_mask h, rfl⟩,
    fun w h => ⟨.seReg _ _, formatR_fields_of_mask h, rfl⟩,
    fun w h => ⟨.ldImm _ _, formatI_fields_of_mask h, rfl⟩,
    fun w h => ⟨.addImm _ _, formatI_fields_of_mask h, rfl⟩,
    nofun⟩

theorem opcodeMapAlu_encoded : ∀ r ∈ opcodeMapAlu, r.Encoded := by
  simp only [opcodeMapAlu, List.forall_mem_cons]
  exact ⟨fun w h => ⟨.ldReg _ _, formatR_fields_of_mask h, rfl⟩,
    fun w h => ⟨.orReg _ _, formatR_fields_of_mask h, rfl⟩,
    fun w h => ⟨.andReg _ _, formatR_fields_of_mask h, rfl⟩,
    fun w h => ⟨.xorReg _ _, formatR_fields_of_mask h, rfl⟩,
    fun w h => ⟨.addReg _ _, formatR_fields_of_mask h, rfl⟩,
    fun w h => ⟨.subReg _ _, formatR_fields_of_mask h, rfl⟩,
    fun w h => ⟨.shr _ _, formatR_fields_of_mask h, rfl⟩,
    fun w h => ⟨.subn _ _, formatR_fields_of_mask h, rfl⟩,
    fun w h => ⟨.shl _ _, formatR_fields_of_mask h, rfl⟩,
    nofun⟩

theorem opcodeMapHigh_encoded : ∀ r ∈ opcodeMapHigh, r.Encoded := by
  simp only [opcodeMapHigh, List.forall_mem_cons]
  exact ⟨fun w h => ⟨.sneReg _ _, formatR_fields_of_mask h, rfl⟩,
    fun w h => ⟨.ldI _, formatA_fields_of_mask h, rfl⟩,
    fun w h => ⟨.jpV0 _, formatA_fields_of_mask h, rfl⟩,
    fun w h => ⟨.rnd _ _, formatI_fields_of_mask h, rfl⟩,
    fun w h => ⟨.drw _ _ _, formatR_fields_of_top_mask h, rfl⟩,
    fun w h => ⟨.skp _, formatF_fields_of_mask h, rfl⟩,
    fun w h => ⟨.sknp _, formatF_fields_of_mask h, rfl⟩,
    nofun⟩

theorem opcodeMapF_encoded : ∀ r ∈ opcodeMapF, r.Encoded := by
  simp only [opcodeMapF, List.forall_mem_cons]
  exact ⟨fun w h => ⟨.ldVxDt _, formatF_fields_of_mask h, rfl⟩,
    fun w h => ⟨.ldVxK _, formatF_fields_of_mask h, rfl⟩,
    fun w h => ⟨.ldDtVx _, formatF_fields_of_mask h, rfl⟩,
    fun w h => ⟨.ldStVx _, formatF_fields_of_mask h, rfl⟩,
    fun w h => ⟨.addI _, formatF_fields_of_mask h, rfl⟩,
    fun w h => ⟨.ldF _, formatF_fields_of_mask h, rfl⟩,
    fun w h => ⟨.ldB _, formatF_fields_of_mask h, rfl⟩,
    fun w h => ⟨.spill _, formatF_fields_of_mask h, rfl⟩,
    fun w h => ⟨.fill _, formatF_fields_of_mask h, rfl⟩,
    nofun⟩

theorem opcodeMap_encoded : ∀ r ∈ opcodeMap, r.Encoded := by
  simp only [opcodeMap, List.forall_mem_append]
  exact ⟨⟨⟨opcodeMapLow_encoded, opcodeMapAlu_encoded⟩, opcodeMapHigh_encoded⟩, opcodeMapF_encoded⟩

/-- The family of Laws/PerInstr.lean as one statement: the word of an instruction belongs to its row of the map. -/
theorem encode_covered : ∀ i : Instr, Laws.Encoding.Statement i
  | .cls => Laws.Encoding.cls
  | .ret => Laws.Encoding.ret
  | .jp nnn => Laws.Encoding.jp nnn
  | .call nnn => Laws.Encoding.call nnn
  | .seImm x nn => Laws.Encoding.seImm x nn
  | .sneImm x nn => Laws.Encoding.sneImm x nn
  | .seReg x y => Laws.Encoding.seReg x y
  | .ldImm x nn => Laws.Encoding.ldImm x nn
  | .addImm x nn => Laws.Encoding.addImm x nn
  | .ldReg x y => Laws.Encoding.ldReg x y
  | .orReg x y => Laws.Encoding.orReg x y
  | .andReg x y => Laws.Encoding.andReg x y
  | .xorReg x y => Laws.Encoding.xorReg x y
  | .addReg x y => Laws.Encoding.addReg x y
  | .subReg x y => Laws.Encoding.subReg x y
  | .shr x y => Laws.Encoding.shr x y
  | .subn x y => Laws.Encoding.subn x y
  | .shl x y => Laws.Encoding.shl x y
  | .sneReg x y => Laws.Encoding.sneReg x y
  | .ldI nnn => Laws.Encoding.ldI nnn
  | .jpV0 nnn => Laws.Encoding.jpV0 nnn
  | .rnd x nn => Laws.Encoding.rnd x nn
  | .drw x y n => Laws.Encoding.drw x y n
  | .skp x => Laws.Encoding.skp x
  | .sknp x => Laws.Encoding.sknp x
  | .ldVxDt x => Laws.Encoding.ldVxDt x
  | .ldVxK x => Laws.Encoding.ldVxK x
  | .ldDtVx x => Laws.Encoding.ldDtVx x
  | .ldStVx x => Laws.Encoding.ldStVx x
  | .addI x => Laws.Encoding.addI x
  | .ldF x => Laws.Encoding.ldF x
  | .ldB x => Laws.Encoding.ldB x
  | .spill x => Laws.Encoding.spill x
  | .fill x => Laws.Encoding.fill x

theorem encode_injective : Function.Injective encode := fun i j h =>
  Except.ok.inj ((decodeEncodeRoundTrip i).symm.trans (h ▸ decodeEncodeRoundTrip j))

/-- A row of the map is told by its mnemonic. -/
theorem opcodeRow_eq_of_mnemonic {r r' : OpcodeRow} (hr : r ∈ opcodeMap) (hr' : r' ∈ opcodeMap)
    (h : r.mnemonic = r'.mnemonic) : r = r' :=
  List.inj_on_of_nodup_map (f := OpcodeRow.mnemonic) (by decide) hr hr' h

/-- Settles O3: a word's rows are those of the one instruction it encodes, and an instruction has one row. -/
theorem decoderFollowsOpcodeMap : Obligations.DecoderFollowsOpcodeMap := by
  refine ⟨fun w m => ⟨?_, ?_⟩, fun w r hr r' hr' h h' => ?_⟩
  · rintro ⟨i, hi, rfl⟩
    obtain ⟨r, hr, hm, hcov⟩ := encode_covered i
    rw [encodeDecodeRoundTrip w i hi] at hcov
    exact ⟨r, hr, hm, beq_iff_eq.1 hcov⟩
  · rintro ⟨r, hr, rfl, hw⟩
    obtain ⟨i, rfl, hm⟩ := opcodeMap_encoded r hr w hw
    exact ⟨i, decodeEncodeRoundTrip i, hm⟩
  · obtain ⟨i, hi, hm⟩ := opcodeMap_encoded r hr w (beq_iff_eq.1 h)
    obtain ⟨i', hi', hm'⟩ := opcodeMap_encoded r' hr' w (beq_iff_eq.1 h')
    obtain rfl := encode_injective (hi.trans hi'.symm)
    exact opcodeRow_eq_of_mnemonic hr hr' (hm.symm.trans hm')

/-! ### The illegal words -/

section
variable {w : Word} {r : Reject}

theorem decode0_eq_error_iff : decode0 w = .error r ↔ r = .illegal0 ∧ w.toNat ≠ 0x00E0 ∧ w.toNat ≠ 0x00EE := by
  unfold decode0
  split <;> simp_all [eq_comm]

theorem decode5_eq_error_iff : decode5 w = .error r ↔ r = .illegal5 ∧ (nibble3 w).toNat ≠ 0 := by
  unfold decode5
  split <;> simp_all [eq_comm]

theorem decode8_eq_error_iff :
    decode8 w = .error r ↔ r = .illegal8 ∧ 8 ≤ (nibble3 w).toNat ∧ (nibble3 w).toNat ≠ 14 := by
  unfold decode8
  split <;> simp_all [eq_comm] <;> omega

theorem decode9_eq_error_iff : decode9 w = .error r ↔ r = .illegal9 ∧ (nibble3 w).toNat ≠ 0 := by
  unfold decode9
  split <;> simp_all [eq_comm]

theorem decodeE_eq_error_iff :
    decodeE w = .error r ↔ r = .illegalE ∧ (fieldNN w).toNat ≠ 0x9E ∧ (fieldNN w).toNat ≠ 0xA1 := by
  unfold decodeE
  split <;> simp_all [eq_comm]

theorem decodeF_eq_error_iff :
    decodeF w = .error r ↔
      r = .illegalF ∧ (fieldNN w).toNat ∉ [0x07, 0x0A, 0x15, 0x18, 0x1E, 0x29, 0x33, 0x55, 0x65] := by
  unfold decodeF
  split <;> simp_all [eq_comm]

/-- Only the six families with illegal words reject (R86). -/
theorem decode_eq_error_iff :
    decode w = .error r ↔
      (nibble0 w).toNat = 0 ∧ decode0 w = .error r ∨ (nibble0 w).toNat = 5 ∧ decode5 w = .error r ∨
      (nibble0 w).toNat = 8 ∧ decode8 w = .error r ∨ (nibble0 w).toNat = 9 ∧ decode9 w = .error r ∨
      (nibble0 w).toNat = 14 ∧ decodeE w = .error r ∨ (nibble0 w).toNat = 15 ∧ decodeF w = .error r := by
  have h := (nibble0 w).isLt
  unfold decode
  split <;> simp_all
  case h_16 => intro _; omega

end

/-- Settles O4: of the six rejecting families, the reason picks one, and only family 0 needs arithmetic. -/
theorem illegalWordsByFamily : Obligations.IllegalWordsByFamily := by
  intro w
  simp only [ne_eq, decode_eq_error_iff, decode0_eq_error_iff, decode5_eq_error_iff, decode8_eq_error_iff,
    decode9_eq_error_iff, decodeE_eq_error_iff, decodeF_eq_error_iff, toNat_nibble0, toNat_nibble3, toNat_fieldNN,
    reduceCtorEq, true_and, false_and, and_false, or_false, false_or, not_false_eq_true, and_true]
  have hzero : w.toNat / 0x1000 = 0 ↔ w.toNat ≤ 0x0FFF := by omega
  rw [hzero]

/-- Settles O5. -/
theorem spelledWordsDecode : Obligations.SpelledWordsDecode := by
  unfold Obligations.SpelledWordsDecode
  decide

namespace Machine

/-! ### Every instruction and every step answers a next state -/

theorem storeAtI_answers (bs : List Byte) (s : State) : ∃ t, storeAtI bs s = .next t := by
  obtain ⟨-, h⟩ | ⟨-, h⟩ := storeAtI_cases bs s
  · exact ⟨_, h⟩
  · exact ⟨_, h⟩

theorem execRet_answers (s : State) : ∃ t, execRet s = .next t := by
  unfold execRet
  split <;> exact ⟨_, rfl⟩

theorem callTo_answers (d : Nat) (nnn : BitVec 12) (s : State) : ∃ t, callTo d nnn s = .next t := by
  unfold callTo
  split <;> exact ⟨_, rfl⟩

theorem draw_answers (e : Config.DrawEdge) (x y : Reg) (n : BitVec 4) (s : State) : ∃ t, draw e x y n s = .next t := by
  unfold draw
  split <;> exact ⟨_, rfl⟩

theorem execFill_answers (x : Reg) (s : State) : ∃ t, execFill x s = .next t := by
  unfold execFill
  split <;> exact ⟨_, rfl⟩

/-- The six instructions that can raise answer on both paths; the others answer by one equation. -/
theorem exec_answers (i : Instr) (s : State) : ∃ t, exec i s = .next t := by
  cases i with
  | ret => exact execRet_answers s
  | call nnn => exact callTo_answers _ nnn s
  | drw x y n => exact draw_answers _ x y n s
  | ldB x => exact storeAtI_answers _ s
  | spill x => exact storeAtI_answers _ s
  | fill x => exact execFill_answers x s
  | _ => exact ⟨_, rfl⟩

theorem stepBy_answers {run : Instr → State → Host.Outcome State Fault Refusal} {s : State}
    (hrun : ∀ i, ∃ t, run i s = .next t) : ∃ t, stepBy run s = .next t := by
  obtain ⟨-, h⟩ | ⟨-, -, h⟩ | ⟨w, r, -, -, -, h⟩ | ⟨w, i, -, -, -, h⟩ := stepBy_cases run s
  · exact ⟨s, h⟩
  · exact ⟨_, h⟩
  · exact ⟨_, h⟩
  · rw [h]; exact hrun i

/-- Settles O9. -/
theorem stepAlwaysAnswersNextState : Obligations.StepAlwaysAnswersNextState :=
  ⟨exec_answers, fun s => stepBy_answers fun i => exec_answers i s⟩

end Machine

end Sys2Proof
end

section
/-! SUPPORT. Proofs of the statements about the step (40_step.md): the two faults before an instruction runs, the halted step, the
placed word, and PC after an instruction that transfers no control. -/

namespace Sys2Proof

/-- The decoder accepts words of the opcode map only: the word is that of its instruction, which has a row (R84, R85). -/
theorem wellFormedWord_of_decode {w : Word} {i : Instr} (h : decode w = .ok i) : wellFormedWord w = true := by
  obtain ⟨r, hr, -, hcov⟩ := encode_covered i
  rw [encodeDecodeRoundTrip w i h] at hcov
  exact List.any_eq_true.2 ⟨r, hr, hcov⟩

theorem exists_decode_eq_error {w : Word} (h : wellFormedWord w = false) : ∃ r, decode w = .error r := by
  cases hd : decode w with
  | error r => exact ⟨r, rfl⟩
  | ok i => simp [wellFormedWord_of_decode hd] at h

namespace Machine

open Sys2Proof.Safety

/-! ### The step where no instruction runs -/

section
variable {run : Instr → State → Host.Outcome State Fault Refusal} {s : State}

theorem stepBy_of_halted (hmode : s.mode = .halted) : stepBy run s = .next s := by
  simp [stepBy, hmode]

theorem stepBy_of_fetch_none (hmode : s.mode = .running) (hfetch : s.fetchWord = none) :
    stepBy run s = .next (s.halt .bounds s.pc s.pc) := by
  simp [stepBy, hmode, hfetch, raise_eq]

theorem stepBy_of_decode_error {w : Word} {r : Reject} (hmode : s.mode = .running) (hfetch : s.fetchWord = some w)
    (hdecode : decode w = .error r) : stepBy run s = .next (s.halt .decode s.pc w) := by
  simp [stepBy, hmode, hfetch, hdecode, raise_eq]

end

/-- Settles O7: the two faults in the order of R195, the fetch before the decode. -/
theorem fetchAndDecodeFaultsHalt : Obligations.FetchAndDecodeFaultsHalt := by
  refine ⟨fun s hmode hpc => stepBy_of_fetch_none hmode (State.fetchWord_eq_none.2 hpc), fun s w hmode hpc hw hill => ?_⟩
  obtain ⟨r, hdecode⟩ := exists_decode_eq_error hill
  exact stepBy_of_decode_error hmode (State.fetchWord_of_toNat_eq hpc hw) hdecode

/-- Settles O8. -/
theorem haltedStepChangesNothing : Obligations.HaltedStepChangesNothing := fun _ => stepBy_of_halted

/-! ### The placed word (log entry 18) -/

theorem State.mode_readyToFetch (s : State) : s.readyToFetch.mode = .running := by
  unfold readyToFetch
  split
  · next hmode => split <;> exact hmode
  · rfl

/-- In either mode PC stays where it can be fetched from, and becomes 0x200 elsewhere. -/
theorem State.pc_readyToFetch (s : State) :
    s.readyToFetch.pc = if s.pc.toNat + 1 < Config.memSize then s.pc else 0x200 := by
  unfold readyToFetch
  split
  · split <;> rfl
  · rfl

theorem State.pc_readyToFetch_le (s : State) : s.readyToFetch.pc.toNat ≤ 0xFFE := by
  rw [pc_readyToFetch]
  simp only [Config.memSize]
  split
  · omega
  · decide

/-- Placing a word writes memory only, on the state made ready to fetch. -/
theorem State.placeWord_eq (s : State) (w : Word) :
    s.placeWord w =
      s.readyToFetch.setMem (s.readyToFetch.mem.writeBytes s.readyToFetch.pc.toNat [highByte w, lowByte w]) := rfl

theorem State.mode_placeWord (s : State) (w : Word) : (s.placeWord w).mode = .running := by
  rw [placeWord_eq, mode_setMem, mode_readyToFetch]

/-- The fetch reads back the two bytes just written, the high one at PC itself (R56, R57). -/
theorem State.fetchWord_placeWord (s : State) (w : Word) : (s.placeWord w).fetchWord = some w := by
  rw [placeWord_eq, fetchWord_eq_some, pc_setMem, mem_setMem]
  exact ⟨s.pc_readyToFetch_le, by simp [Memory.readByte_writeBytes, wordOfBytes_bytes]⟩

/-- Settles O11. -/
theorem placedWordRunsNext : Obligations.PlacedWordRunsNext :=
  fun s _ _ hdecode => stepBy_of_fetch_decode (s.mode_placeWord _) (s.fetchWord_placeWord _) hdecode

/-! ### PC after an instruction -/

/-- Settles O20: a raise leaves the machine Halted, the eight transfers are excluded by name, and what is left ends in the
advance (R102). -/
theorem onlyTransfersRedirectPc : Obligations.OnlyTransfersRedirectPc := by
  intro i s t _ h hrun htransfer
  obtain ⟨c, w, -, rfl⟩ | he := exec_cases h
  · simp at hrun
  · revert he
    cases i with
    | ret | jp | call | seImm | sneImm | seReg | sneReg | jpV0 => simp [transfersControl] at htransfer
    | _ => simp +contextual [-Bool.exists_bool]

end Machine
end Sys2Proof
end

section
/-! SUPPORT. Proofs of the statements about control transfer (41_control_flow.md): the jumps, the call and the return, and the
four skips. -/

namespace Sys2Proof
namespace Machine

open Sys2Proof.Safety

/-- Decoding back is what every instruction does, so an encoding clause is its row of the opcode map (R85). -/
theorem encodes_of_mask {i : Instr} {mask pattern : Word} (h : encode i &&& mask = pattern) : Encodes i mask pattern :=
  ⟨h, decodeEncodeRoundTrip i⟩

/-! ### Writing PC only -/

theorem State.sameOutsideRegs_setPc (s : State) (a : Word) : SameOutsideRegs s (s.setPc a) :=
  ⟨rfl, rfl, rfl, rfl, rfl, rfl, rfl, rfl, rfl, fun _ => rfl, rfl⟩

/-- A transfer that also changes the stack writes PC only, once the stack is put back (R110, R112). -/
theorem State.sameOutsideRegs_setStack_setPc (s : State) (l : List Word) (a : Word) :
    SameOutsideRegs s { (s.setStack l).setPc a with stack := s.stack } :=
  s.sameOutsideRegs_setPc a

@[simp] theorem State.setPc_pc (s : State) : s.setPc s.pc = s := rfl

/-- A skip writes PC only: p + 4 when it is taken, p + 2 otherwise (R118). -/
theorem State.skipIf_eq_setPc (s : State) (c : Bool) : s.skipIf c = s.setPc (if c then s.pc + 4 else s.pc + 2) := by
  cases c with
  | false => rfl
  | true => exact congrArg s.setPc (BitVec.add_assoc s.pc 2 2)

/-! ### The call and the return, completing and raising -/

theorem exec_call_of_lt (nnn : BitVec 12) {s : State} (h : s.stack.length < 16) :
    exec (.call nnn) s = .next ((s.setStack ((s.pc + 2) :: s.stack)).setPc (immAddr nnn)) := by
  change callTo 16 nnn s = _
  rw [callTo, State.push_eq_some.2 ⟨h, rfl⟩]

theorem exec_call_of_le (nnn : BitVec 12) {s : State} (h : 16 ≤ s.stack.length) :
    exec (.call nnn) s = .next (s.halt .stack s.pc 1) := by
  change callTo 16 nnn s = _
  rw [callTo, State.push_eq_none.2 h, raise_eq]

theorem exec_ret_of_cons {s : State} {a : Word} {rest : List Word} (h : s.stack = a :: rest) :
    exec .ret s = .next ((s.setStack rest).setPc a) := by
  change execRet s = _
  rw [execRet, State.pop_eq_some.2 ⟨rest, h, rfl⟩]

theorem exec_ret_of_nil {s : State} (h : s.stack = []) : exec .ret s = .next (s.halt .stack s.pc 0) := by
  change execRet s = _
  rw [execRet, State.pop_eq_none.2 h, raise_eq]

/-- Settles O30: the call leaves p + 2 on top of the caller's stack, and the return pops it from any state with that stack. -/
theorem callThenReturnComesBack : Obligations.CallThenReturnComesBack := by
  intro nnn s t u v hlen hcall hstack hret
  rw [exec_call_of_lt nnn hlen] at hcall
  cases hcall
  rw [exec_ret_of_cons hstack] at hret
  cases hret
  exact ⟨rfl, rfl⟩

/-- Settles O27. -/
theorem callPushesReturnAddress : Obligations.CallPushesReturnAddress :=
  fun nnn s hlen => ⟨_, exec_call_of_lt nnn hlen, toNat_immAddr nnn, rfl, fun _ => rfl, s.sameOutsideRegs_setStack_setPc _ _⟩

/-- Settles O28. -/
theorem returnPopsIntoPc : Obligations.ReturnPopsIntoPc :=
  fun s _ _ hstack => ⟨_, exec_ret_of_cons hstack, rfl, rfl, fun _ => rfl, s.sameOutsideRegs_setStack_setPc _ _⟩

/-- Settles O29. -/
theorem stackErrorsHalt : Obligations.StackErrorsHalt :=
  ⟨fun _ => exec_ret_of_nil, fun nnn _ => exec_call_of_le nnn⟩

/-! ### The jumps -/

/-- Settles O26: a jump to its own address writes to PC what PC holds. -/
theorem jumpGoesToTarget : Obligations.JumpGoesToTarget := by
  refine fun nnn s => ⟨encodes_of_mask (mask_formatA 1 nnn), s.setPc (immAddr nnn), rfl, toNat_immAddr nnn, fun _ => rfl,
    s.sameOutsideRegs_setPc _, fun hself => ?_⟩
  have htarget : immAddr nnn = s.pc := BitVec.eq_of_toNat_eq ((toNat_immAddr nnn).trans hself.symm)
  rw [htarget, State.setPc_pc]

/-- Settles O32: at 16 bits the sum cannot wrap. -/
theorem offsetJumpAddsV0 : Obligations.OffsetJumpAddsV0 :=
  fun nnn s => ⟨_, rfl, toNat_offsetAddr nnn (s.reg 0), fun _ => rfl, s.sameOutsideRegs_setPc _⟩

/-! ### The skips -/

/-- What the four skips share: an instruction that skips exactly when `P` holds writes PC only, p + 4 or p + 2 (R118). -/
theorem exec_skip {i : Instr} {s : State} {c : Bool} {P : Prop} [Decidable P] (h : exec i s = .next (s.skipIf c))
    (hc : c = true ↔ P) :
    ∃ t, exec i s = .next t ∧ t.pc = (if P then s.pc + 4 else s.pc + 2) ∧ (∀ z, t.reg z = s.reg z) ∧
      SameOutsideRegs s t := by
  rw [State.skipIf_eq_setPc] at h
  exact ⟨_, h, by simp [hc], fun _ => rfl, s.sameOutsideRegs_setPc _⟩

/-- Settles O31: each of the four answers `skipIf` of its own comparison. -/
theorem skipsCompareAndSkip : Obligations.SkipsCompareAndSkip :=
  ⟨fun x nn _ => ⟨encodes_of_mask (mask_formatI 3 x nn), exec_skip rfl beq_iff_eq⟩,
   fun x nn _ => ⟨encodes_of_mask (mask_formatI 4 x nn), exec_skip rfl bne_iff_ne⟩,
   fun x y _ => ⟨encodes_of_mask (mask_formatR 5 x y 0), exec_skip rfl beq_iff_eq⟩,
   fun x y _ => ⟨encodes_of_mask (mask_formatR 9 x y 0), exec_skip rfl bne_iff_ne⟩⟩

end Machine
end Sys2Proof
end

section
/-! SUPPORT. Proofs of the statements about register load and the ALU (42_alu.md): the instructions that write one register, those
that write a result and the flag, the shifts with either source, and the random byte. -/

namespace Sys2Proof
namespace Machine

open Sys2Proof.Safety

/-! ### Writing one register, or a result and the flag, then the advance (R102, R105, R107) -/

@[simp] theorem State.reg_setReg_same (s : State) (x : Reg) (b : Byte) : (s.setReg x b).reg x = b := by
  rw [reg_setReg, if_pos rfl]

theorem State.reg_setReg_of_ne (s : State) {x z : Reg} (b : Byte) (h : z ≠ x) : (s.setReg x b).reg z = s.reg z := by
  rw [reg_setReg, if_neg h]

theorem State.sameOutsideRegs_setReg_advance (s : State) (x : Reg) (b : Byte) : SameOutsideRegs s (s.setReg x b).advance :=
  ⟨rfl, rfl, rfl, rfl, rfl, rfl, rfl, rfl, rfl, fun _ => rfl, rfl⟩

theorem State.sameOutsideRegs_setResult_advance (s : State) (x : Reg) (b : Byte) (f : Bool) :
    SameOutsideRegs s (s.setResult x b f).advance :=
  ⟨rfl, rfl, rfl, rfl, rfl, rfl, rfl, rfl, rfl, fun _ => rfl, rfl⟩

section
variable {o : Host.Outcome State Fault Refusal} {s : State} {x : Reg} {b : Byte}

/-- What an instruction without a flag leaves: Vx with whatever holds of its result `b`, and the frame. -/
theorem next_setReg (h : o = .next (s.setReg x b).advance) (P : Byte → Prop) (hb : P b) :
    ∃ t, o = .next t ∧ P (t.reg x) ∧ (∀ z, z ≠ x → t.reg z = s.reg z) ∧ t.pc = s.pc + 2 ∧ SameOutsideRegs s t :=
  ⟨_, h, by rwa [State.reg_advance, State.reg_setReg_same], fun _ hz => s.reg_setReg_of_ne b hz, rfl,
    s.sameOutsideRegs_setReg_advance x b⟩

/-- What an instruction with a flag leaves: Vx with whatever holds of its result `b` unless x = 15, the flag in VF for every x
(R107 b), and the frame. -/
theorem next_setResult {f : Bool} {n : Nat} (h : o = .next (s.setResult x b f).advance) (P : Byte → Prop) (hb : P b)
    (hf : (flagByte f).toNat = n) :
    ∃ t, o = .next t ∧ (x ≠ 15 → P (t.reg x)) ∧ (t.reg 15).toNat = n ∧ (∀ z, z ≠ x → z ≠ 15 → t.reg z = s.reg z) ∧
      t.pc = s.pc + 2 ∧ SameOutsideRegs s t := by
  refine ⟨_, h, fun hx => ?_, ?_, fun z hzx hzF => ?_, rfl, s.sameOutsideRegs_setResult_advance x b f⟩
  · rwa [State.reg_advance, State.reg_setResult, if_neg hx, if_pos rfl]
  · rw [State.reg_advance, State.reg_setResult, if_pos rfl, hf]
  · rw [State.reg_advance, State.reg_setResult, if_neg hzF, if_neg hzx]

end

/-! ### Results and flags as numbers (R126 to R130) -/

theorem toNat_flagByte (f : Bool) : (flagByte f).toNat = f.toNat := by cases f <;> rfl

theorem toNat_flagByte_decide (p : Prop) [Decidable p] : (flagByte (decide p)).toNat = if p then 1 else 0 := by
  by_cases h : p <;> simp [h, toNat_flagByte]

theorem toNat_flagByte_lowBit (a : Byte) : (flagByte (lowBit a)).toNat = a.toNat % 2 := by
  rw [toNat_flagByte, lowBit, BitVec.getLsbD, Nat.toNat_testBit, pow_zero, Nat.div_one]

/-- Above bit 7 nothing is left, so the quotient by 128 is the bit itself. -/
theorem toNat_flagByte_highBit (a : Byte) : (flagByte (highBit a)).toNat = a.toNat / 128 := by
  have := a.isLt
  rw [toNat_flagByte, highBit, BitVec.getLsbD, Nat.toNat_testBit]
  omega

/-- The byte difference is the integer difference modulo 256: a borrow adds 256 (R127). -/
theorem toNat_sub_int (a b : Byte) : ((a - b).toNat : Int) = (a.toNat - b.toNat : Int) % 256 := by
  have := b.isLt
  rw [BitVec.toNat_sub]
  omega

theorem toNat_shiftRight_one (a : Byte) : (a >>> 1).toNat = a.toNat / 2 := by
  rw [BitVec.toNat_ushiftRight, Nat.shiftRight_one]

theorem toNat_shiftLeft_one (a : Byte) : (a <<< 1).toNat = a.toNat * 2 % 256 := by
  rw [BitVec.toNat_shiftLeft, Nat.shiftLeft_eq]

/-! ### Loads, copies and logic, without a flag -/

/-- Settles O33. -/
theorem loadImmediate : Obligations.LoadImmediate :=
  fun x nn _ => ⟨encodes_of_mask (mask_formatI 6 x nn), next_setReg rfl (· = nn) rfl⟩

/-- Settles O34. -/
theorem addImmediateWraps : Obligations.AddImmediateWraps :=
  fun x nn s => ⟨encodes_of_mask (mask_formatI 7 x nn),
    next_setReg rfl (·.toNat = ((s.reg x).toNat + nn.toNat) % 256) (BitVec.toNat_add _ _)⟩

/-- Settles O35. -/
theorem copyRegister : Obligations.CopyRegister :=
  fun x y s => ⟨encodes_of_mask (mask_formatR 8 x y 0), next_setReg rfl (· = s.reg y) rfl⟩

/-- Settles O36: the three operations on bytes are the bitwise ones. -/
theorem logicIsBitwise : Obligations.LogicIsBitwise :=
  ⟨fun x y s => next_setReg rfl (fun b => ∀ k, b.getLsbD k = ((s.reg x).getLsbD k || (s.reg y).getLsbD k))
    fun _ => BitVec.getLsbD_or,
   fun x y s => next_setReg rfl (fun b => ∀ k, b.getLsbD k = ((s.reg x).getLsbD k && (s.reg y).getLsbD k))
    fun _ => BitVec.getLsbD_and,
   fun x y s => next_setReg rfl (fun b => ∀ k, b.getLsbD k = ((s.reg x).getLsbD k ^^ (s.reg y).getLsbD k))
    fun _ => BitVec.getLsbD_xor⟩

/-! ### Sum and differences, with the flag -/

/-- Settles O37. -/
theorem addSetsCarry : Obligations.AddSetsCarry :=
  fun x y s => ⟨encodes_of_mask (mask_formatR 8 x y 4),
    next_setResult rfl (·.toNat = ((s.reg x).toNat + (s.reg y).toNat) % 256) (BitVec.toNat_add _ _)
      (toNat_flagByte_decide _)⟩

/-- Settles O38: 8XY7 is 8XY5 with the operands exchanged. -/
theorem subtractSetsNoBorrow : Obligations.SubtractSetsNoBorrow :=
  ⟨fun x y s => next_setResult rfl (fun b => (b.toNat : Int) = ((s.reg x).toNat - (s.reg y).toNat : Int) % 256)
    (toNat_sub_int _ _) (toNat_flagByte_decide _),
   fun x y s => next_setResult rfl (fun b => (b.toNat : Int) = ((s.reg y).toNat - (s.reg x).toNat : Int) % 256)
    (toNat_sub_int _ _) (toNat_flagByte_decide _)⟩

/-! ### Shifts, with either source (R133) -/

theorem shiftRight_next (q : Config.ShiftQuirk) (x y : Reg) (s : State) :
    ∃ t, shiftRight q x y s = .next t ∧ (x ≠ 15 → (t.reg x).toNat = (s.reg (shiftSource q x y)).toNat / 2) ∧
      (t.reg 15).toNat = (s.reg (shiftSource q x y)).toNat % 2 ∧ (∀ z, z ≠ x → z ≠ 15 → t.reg z = s.reg z) ∧
      t.pc = s.pc + 2 ∧ SameOutsideRegs s t :=
  next_setResult rfl (·.toNat = (s.reg (shiftSource q x y)).toNat / 2) (toNat_shiftRight_one _) (toNat_flagByte_lowBit _)

theorem shiftLeft_next (q : Config.ShiftQuirk) (x y : Reg) (s : State) :
    ∃ t, shiftLeft q x y s = .next t ∧ (x ≠ 15 → (t.reg x).toNat = (s.reg (shiftSource q x y)).toNat * 2 % 256) ∧
      (t.reg 15).toNat = (s.reg (shiftSource q x y)).toNat / 128 ∧ (∀ z, z ≠ x → z ≠ 15 → t.reg z = s.reg z) ∧
      t.pc = s.pc + 2 ∧ SameOutsideRegs s t :=
  next_setResult rfl (·.toNat = (s.reg (shiftSource q x y)).toNat * 2 % 256) (toNat_shiftLeft_one _) (toNat_flagByte_highBit _)

/-- Settles O39: the hardware's shifts are the modern ones, whose source is Vx. -/
theorem shiftsInPlace : Obligations.ShiftsInPlace := ⟨shiftRight_next .modern, shiftLeft_next .modern⟩

/-- Settles O40: the legacy source is Vy. -/
theorem legacyShiftsTakeVy : Obligations.LegacyShiftsTakeVy := by
  intro p r x y s hq
  have hshr : execWith p r (.shr x y) s = shiftRight .legacy x y s := congrArg (shiftRight · x y s) hq
  have hshl : execWith p r (.shl x y) s = shiftLeft .legacy x y s := congrArg (shiftLeft · x y s) hq
  rw [hshr, hshl]
  exact ⟨shiftRight_next .legacy x y s, shiftLeft_next .legacy x y s⟩

/-! ### The random byte (R131) -/

/-- A masked byte has no bit outside its mask. -/
theorem and_mask_and_not (r nn : Byte) : r &&& nn &&& ~~~nn = 0 := by
  simp [BitVec.and_assoc]

/-- Settles O41: once the count of draws is put back, CXNN has written Vx and PC only. -/
theorem randomUnderMask : Obligations.RandomUnderMask := by
  refine fun x nn s => ⟨⟨_, rfl, ?_, fun _ hz => s.reg_setReg_of_ne _ hz, rfl, rfl, s.sameOutsideRegs_setReg_advance x _⟩,
    fun _ r => ⟨_, rfl, s.reg_setReg_same x (r &&& nn)⟩⟩
  rw [State.reg_advance, State.reg_countDraw, State.reg_setReg_same, and_mask_and_not]

end Machine
end Sys2Proof
end

section
/-! SUPPORT. Proofs of the statements about the index register and memory transfer (43_index_memory.md): the three writers of I,
the two stores at I, and the load from I. -/

namespace Sys2Proof
namespace Machine

open Sys2Proof.Safety

/-! ### Writing I -/

/-- What ANNN and FX29 share: an instruction that answers with `a` in I writes I and PC only. -/
theorem next_setI {o : Host.Outcome State Fault Refusal} {s : State} {a : Word} {n : Nat}
    (h : o = .next (s.setI a).advance) (ha : a.toNat = n) :
    ∃ t, o = .next t ∧ t.i.toNat = n ∧ (∀ z, t.reg z = s.reg z) ∧ t.pc = s.pc + 2 ∧ SameOutsideRegs s { t with i := s.i } :=
  ⟨_, h, ha, fun _ => rfl, rfl, s.sameOutsideRegs_setPc (s.pc + 2)⟩

/-- Settles O42. -/
theorem loadIndex : Obligations.LoadIndex :=
  fun nnn _ => ⟨encodes_of_mask (mask_formatA 10 nnn), next_setI rfl (toNat_immAddr nnn)⟩

/-- Settles O44: the highest glyph address, 0x050 + 5 * 255, fits in 16 bits. -/
theorem pointAtGlyph : Obligations.PointAtGlyph := fun x s => next_setI rfl (toNat_glyphAddr (s.reg x))

theorem toNat_indexSum_bits16 (i : Word) (b : Byte) : (indexSum .bits16 i b).toNat = (i.toNat + b.toNat) % 65536 :=
  Nat.mod_mod _ _

/-- FX1E at either width leaves the reduced sum in I, the overflow of the unreduced one in VF, and the frame (R141). -/
theorem addIndex_next {w : Config.IndexWrap} {x : Reg} {s : State} {n : Nat}
    (h : (indexSum w s.i (s.reg x)).toNat = n) :
    ∃ t, addIndex w x s = .next t ∧ t.i.toNat = n ∧
      (t.reg 15).toNat = (if s.i.toNat + (s.reg x).toNat > 0xFFF then 1 else 0) ∧
      (∀ z, z ≠ 15 → t.reg z = s.reg z) ∧ t.pc = s.pc + 2 ∧ SameOutsideRegs s { t with i := s.i } := by
  refine ⟨_, rfl, h, ?_, fun z hz => s.reg_setReg_of_ne _ hz, rfl, s.sameOutsideRegs_setReg_advance vF _⟩
  rw [State.reg_advance, State.reg_setFlag, if_pos rfl]
  exact toNat_flagByte_decide _

/-- Settles O43: the hardware's width is 12 bits. -/
theorem addToIndex : Obligations.AddToIndex := by
  refine fun x s => ⟨addIndex_next (w := .bits12) (toNat_indexSum _ _), fun p r hp => ?_⟩
  have hexec : execWith p r (.addI x) s = addIndex .bits16 x s := congrArg (addIndex · x s) hp
  obtain ⟨t, ht, hsum, hflag, -⟩ := addIndex_next (x := x) (s := s) (toNat_indexSum_bits16 _ _)
  exact ⟨t, hexec.trans ht, hsum, hflag⟩

/-! ### Stores at I -/

/-- What FX33 and FX55 share: a store at I that stays in memory puts each byte of the run in its place and changes nothing else
but PC (R55, R146). -/
theorem storeAtI_next_of_le {s : State} {bs : List Byte} (h : s.i.toNat + bs.length ≤ 4096) :
    ∃ t, storeAtI bs s = .next t ∧ (∀ k b, bs[k]? = some b → t.mem.readByte (s.i.toNat + k) = b) ∧
      (∀ a, a < s.i.toNat ∨ s.i.toNat + bs.length ≤ a → t.mem.readByte a = s.mem.readByte a) ∧
      (∀ z, t.reg z = s.reg z) ∧ t.pc = s.pc + 2 ∧ SameOutsideRegs s { t with mem := s.mem } :=
  ⟨_, storeAtI_of_le h, fun _ _ => Memory.readByte_writeBytes_add, fun _ => Memory.readByte_writeBytes_outside,
    fun _ => rfl, rfl, s.sameOutsideRegs_setPc (s.pc + 2)⟩

/-- Settles O45: each digit is below 256, so the stored byte is the digit itself. -/
theorem storeDecimalDigits : Obligations.StoreDecimalDigits := by
  intro x s hle
  have hv := (s.reg x).isLt
  obtain ⟨t, ht, hdigit, hframe⟩ := storeAtI_next_of_le (bs := decimalDigits (s.reg x)) hle
  have hnat {k d : Nat} (hget : (decimalDigits (s.reg x))[k]? = some (BitVec.ofNat 8 d)) (hd : d < 256) :
      (t.mem.readByte (s.i.toNat + k)).toNat = d := by
    rw [hdigit k _ hget, BitVec.toNat_ofNat, Nat.mod_eq_of_lt hd]
  exact ⟨t, ht, hnat (k := 0) rfl (by omega), hnat (k := 1) rfl (by omega), hnat (k := 2) rfl (by omega), hframe⟩

/-- Settles O46: the run holds x + 1 registers, Vz at place z. -/
theorem spillStoresRegisters : Obligations.SpillStoresRegisters := by
  intro x s hle
  have hlen : s.i.toNat + (s.regRun x).length = s.i.toNat + x.val + 1 := by rw [State.length_regRun, Nat.add_assoc]
  obtain ⟨t, ht, hbyte, hrest, hframe⟩ := storeAtI_next_of_le (hlen.trans_le hle)
  rw [hlen] at hrest
  exact ⟨t, ht, fun z hz => hbyte z.val _ (s.getElem?_regRun x z hz), hrest, hframe⟩

/-! ### The load from I -/

theorem State.sameOutsideRegs_setRegRun_advance (s : State) (bs : List Byte) : SameOutsideRegs s (s.setRegRun bs).advance :=
  ⟨rfl, rfl, rfl, rfl, rfl, rfl, rfl, rfl, rfl, fun _ => rfl, rfl⟩

/-- FX65 that stays in memory completes, with the bytes from I up in V0 to Vx (R145). -/
theorem exec_fill_of_le {x : Reg} {s : State} (h : s.i.toNat + x.val + 1 ≤ 4096) :
    exec (.fill x) s = .next (s.setRegRun (s.mem.readBytes s.i.toNat (x.val + 1))).advance := by
  change execFill x s = _
  rw [execFill, Memory.readRange, if_pos (show s.i.toNat + (x.val + 1) ≤ Config.memSize from h)]

/-- A register inside a run read from memory takes the byte at its own place (R145). -/
theorem State.reg_setRegRun_readBytes {s : State} {m : Memory} {p len : Nat} {z : Reg} (h : z.val < len) :
    (s.setRegRun (m.readBytes p len)).reg z = m.readByte (p + z.val) := by
  rw [reg_setRegRun, Memory.getElem?_readBytes, if_pos h, Option.getD_some]

/-- Settles O47. -/
theorem fillLoadsRegisters : Obligations.FillLoadsRegisters :=
  fun _ s hle => ⟨_, exec_fill_of_le hle, fun _ hz => State.reg_setRegRun_readBytes (Nat.lt_succ_of_le hz),
    fun _ hz => State.reg_setRegRun_of_le (by simpa using hz), rfl, s.sameOutsideRegs_setRegRun_advance _⟩

end Machine
end Sys2Proof
end

section
/-! SUPPORT. Proofs of the statements about the display (44_display.md): clearing the screen, the pixels a sprite lands on with
either DRAW_EDGE, and what DXYN leaves there. -/

namespace Sys2Proof
namespace Machine

open Sys2Proof.Safety

/-- Settles O49: an empty row has no pixel on. -/
theorem clearScreen : Obligations.ClearScreen :=
  fun s => ⟨encodes_of_mask rfl, _, rfl, fun r c => by simp [State.pixel], rfl, fun _ => rfl, rfl,
    s.sameOutsideRegs_setPc (s.pc + 2)⟩

/-! ### The row and the columns of a sprite byte, as numbers (R151, R152, R154) -/

theorem targetRow_wrap_eq_some {row k : Nat} {r : Fin 32} : targetRow .wrap row k = some r ↔ (row + k) % 32 = r.val := by
  simp [targetRow, Fin.ext_iff]

theorem targetRow_clip_eq_some {row k : Nat} {r : Fin 32} : targetRow .clip row k = some r ↔ row + k = r.val := by
  have hr := r.isLt
  by_cases h : row + k < 32
  · simp [targetRow, h, Fin.ext_iff]
  · simp only [targetRow, h, dite_false, reduceCtorEq, false_iff]
    omega

/-- A bit counted from the left of a byte, which has eight. -/
theorem getMsbD_byte (b : Byte) (j : Nat) : b.getMsbD j = true ↔ j < 8 ∧ b.getLsbD (7 - j) = true := by
  rw [BitVec.getMsbD, Bool.and_eq_true, decide_eq_true_iff]

theorem getMsbD_spriteMask_wrap_iff {col : Nat} (hcol : col < 64) (b : Byte) (c : Fin 64) :
    (spriteMask .wrap col b).getMsbD c.val = true ↔ ∃ j < 8, b.getLsbD (7 - j) = true ∧ (col + j) % 64 = c.val := by
  have hc := c.isLt
  rw [getMsbD_spriteMask_wrap col b c.val hcol hc, getMsbD_byte]
  constructor
  · rintro ⟨hj, hbit⟩
    exact ⟨_, hj, hbit, by omega⟩
  · rintro ⟨j, hj, hbit, hjc⟩
    obtain rfl : j = (c.val + 64 - col) % 64 := by omega
    exact ⟨hj, hbit⟩

theorem getMsbD_spriteMask_clip_iff (col : Nat) (b : Byte) (c : Fin 64) :
    (spriteMask .clip col b).getMsbD c.val = true ↔ ∃ j < 8, b.getLsbD (7 - j) = true ∧ col + j = c.val := by
  rw [getMsbD_spriteMask_clip col b c.val c.isLt, Bool.and_eq_true, decide_eq_true_iff, getMsbD_byte]
  constructor
  · rintro ⟨hle, hj, hbit⟩
    exact ⟨_, hj, hbit, Nat.add_sub_cancel' hle⟩
  · rintro ⟨j, hj, hbit, hjc⟩
    obtain rfl : j = c.val - col := by omega
    exact ⟨by omega, hj, hbit⟩

/-! ### What the sprite rows do to a framebuffer row and to the flag -/

/-- A framebuffer row that a sprite row falls on takes exactly that row: a sprite of at most 32 rows never returns to it. -/
theorem get_drawRows_of_targetRow {e : Config.DrawEdge} {row col k : Nat} {bs : List Byte} {fb : Vector (BitVec 64) 32}
    {r : Fin 32} {b : Byte} (hrow : row < 32) (hlen : bs.length ≤ 32) (hb : bs[k]? = some b)
    (hr : targetRow e row k = some r) : (drawRows e row col 0 bs fb).get r = fb.get r ^^^ spriteMask e col b := by
  obtain ⟨hk, -⟩ := List.getElem?_eq_some_iff.1 hb
  cases e with
  | wrap =>
    rw [targetRow_wrap_eq_some] at hr
    have hkr : (r.val + 32 - row) % 32 - 0 = k := by omega
    rw [get_drawRows_wrap row col 0 bs fb r hrow (by omega), if_pos (Nat.zero_le _), hkr, hb]
  | clip =>
    rw [targetRow_clip_eq_some] at hr
    have hkr : r.val - (row + 0) = k := by omega
    rw [get_drawRows_clip row col 0 bs fb r, if_pos (by omega), hkr, hb]

/-- A framebuffer row that no sprite row falls on stays. -/
theorem get_drawRows_of_forall_ne {e : Config.DrawEdge} {row col : Nat} {bs : List Byte} {fb : Vector (BitVec 64) 32}
    {r : Fin 32} (hrow : row < 32) (hlen : bs.length ≤ 32) (hr : ∀ k < bs.length, targetRow e row k ≠ some r) :
    (drawRows e row col 0 bs fb).get r = fb.get r := by
  have hr32 := r.isLt
  cases e with
  | wrap =>
    have hk : bs.length ≤ (r.val + 32 - row) % 32 - 0 := by
      by_contra hlt
      exact hr _ (Nat.lt_of_not_le hlt) (targetRow_wrap_eq_some.2 (by omega))
    rw [get_drawRows_wrap row col 0 bs fb r hrow (by omega), if_pos (Nat.zero_le _), List.getElem?_eq_none hk]
  | clip =>
    rw [get_drawRows_clip row col 0 bs fb r]
    split
    · next hle =>
      have hk : bs.length ≤ r.val - (row + 0) := by
        by_contra hlt
        exact hr _ (Nat.lt_of_not_le hlt) (targetRow_clip_eq_some.2 (by omega))
      rw [List.getElem?_eq_none hk]
    · rfl

theorem flagByte_eq_one_iff {f : Bool} : flagByte f = 1 ↔ f = true := by cases f <;> decide

/-- Two framebuffer rows meet iff some column is on in both. -/
theorem and_ne_zero_iff_exists_getMsbD (a b : BitVec 64) :
    a &&& b ≠ 0 ↔ ∃ c : Fin 64, a.getMsbD c.val = true ∧ b.getMsbD c.val = true := by
  constructor
  · intro hne
    by_contra hnone
    refine hne (BitVec.eq_of_getMsbD_eq fun c hc => ?_)
    have hcol : ¬ (a.getMsbD c = true ∧ b.getMsbD c = true) := fun h => hnone ⟨⟨c, hc⟩, h⟩
    simpa using hcol
  · rintro ⟨c, ha, hb⟩ h0
    have hcol : (a &&& b).getMsbD c.val = true := by rw [BitVec.getMsbD_and, ha, hb]; rfl
    simp [h0] at hcol

/-! ### The pixels a sprite lands on -/

/-- With DRAW_EDGE `e`, a set bit of the sprite DXYN draws lands on pixel (r, c). -/
def SpriteLands (e : Config.DrawEdge) (s : State) (x y : Reg) (n : BitVec 4) (r : Fin 32) (c : Fin 64) : Prop :=
  ∃ k < n.toNat, targetRow e (startRow (s.reg y)) k = some r ∧
    (spriteMask e (startCol (s.reg x)) (s.mem.readByte (s.i.toNat + k))).getMsbD c.val = true

theorem startRow_lt (b : Byte) : startRow b < 32 := Nat.mod_lt _ (by decide)

theorem startCol_lt (b : Byte) : startCol b < 64 := Nat.mod_lt _ (by decide)

section
variable {e : Config.DrawEdge} {s : State} {x y : Reg} {n : BitVec 4} {r : Fin 32} {c : Fin 64}

theorem spriteLands_wrap_iff : SpriteLands .wrap s x y n r c ↔ SpriteCovers s x y n r c := by
  simp only [SpriteLands, targetRow_wrap_eq_some, getMsbD_spriteMask_wrap_iff (startCol_lt _)]
  exact ⟨fun ⟨k, hk, hr, j, hj, hbit, hc⟩ => ⟨k, j, hk, hj, hbit, hr, hc⟩,
    fun ⟨k, j, hk, hj, hbit, hr, hc⟩ => ⟨k, hk, hr, j, hj, hbit, hc⟩⟩

theorem spriteLands_clip_iff : SpriteLands .clip s x y n r c ↔ SpriteCoversClipped s x y n r c := by
  simp only [SpriteLands, targetRow_clip_eq_some, getMsbD_spriteMask_clip_iff]
  exact ⟨fun ⟨k, hk, hr, j, hj, hbit, hc⟩ => ⟨k, j, hk, hj, hbit, hr, hc⟩,
    fun ⟨k, j, hk, hj, hbit, hr, hc⟩ => ⟨k, hk, hr, j, hj, hbit, hc⟩⟩

/-! ### What DXYN leaves, with either DRAW_EDGE (R151 to R155) -/

/-- The sprite DXYN draws: the `n` bytes from I up. -/
def State.sprite (s : State) (n : BitVec 4) : List Byte := s.mem.readBytes s.i.toNat n.toNat

theorem State.length_sprite : (s.sprite n).length = n.toNat := Memory.length_readBytes ..

theorem State.length_sprite_le : (s.sprite n).length ≤ 32 := by
  have hn := n.isLt
  rw [length_sprite]
  omega

theorem State.getElem?_sprite_eq_some {k : Nat} {b : Byte} :
    (s.sprite n)[k]? = some b ↔ k < n.toNat ∧ s.mem.readByte (s.i.toNat + k) = b := by
  rw [sprite, Memory.getElem?_readBytes, Option.ite_none_right_eq_some, Option.some_inj]

/-- The state a completed DXYN leaves. -/
def State.drawn (e : Config.DrawEdge) (x y : Reg) (n : BitVec 4) (s : State) : State :=
  ((s.setFb (drawRows e (startRow (s.reg y)) (startCol (s.reg x)) 0 (s.sprite n) s.fb)).setFlag
    (collides e (startRow (s.reg y)) (startCol (s.reg x)) 0 (s.sprite n) s.fb)).advance

/-- DXYN completes when its sprite stays in memory. -/
theorem draw_of_le (h : s.i.toNat + n.toNat ≤ 4096) : draw e x y n s = .next (s.drawn e x y n) := by
  rw [draw, Memory.readRange, if_pos (show s.i.toNat + n.toNat ≤ Config.memSize from h)]
  rfl

/-- The hardware's DXYN wraps. -/
theorem exec_drw_of_le (h : s.i.toNat + n.toNat ≤ 4096) : exec (.drw x y n) s = .next (s.drawn .wrap x y n) := draw_of_le h

theorem State.pixel_drawn : (s.drawn e x y n).pixel r c =
    ((drawRows e (startRow (s.reg y)) (startCol (s.reg x)) 0 (s.sprite n) s.fb).get r).getMsbD c.val := rfl

theorem pixel_drawn_of_lands (h : SpriteLands e s x y n r c) : (s.drawn e x y n).pixel r c = !s.pixel r c := by
  obtain ⟨k, hk, hr, hc⟩ := h
  rw [State.pixel_drawn, State.pixel,
    get_drawRows_of_targetRow (startRow_lt _) State.length_sprite_le (State.getElem?_sprite_eq_some.2 ⟨hk, rfl⟩) hr,
    BitVec.getMsbD_xor, hc, Bool.xor_true]

theorem pixel_drawn_of_not_lands (h : ¬ SpriteLands e s x y n r c) : (s.drawn e x y n).pixel r c = s.pixel r c := by
  rw [State.pixel_drawn, State.pixel]
  by_cases hrow : ∃ k < n.toNat, targetRow e (startRow (s.reg y)) k = some r
  · obtain ⟨k, hk, hr⟩ := hrow
    have hc := Bool.eq_false_of_not_eq_true fun hc => h ⟨k, hk, hr, hc⟩
    rw [get_drawRows_of_targetRow (startRow_lt _) State.length_sprite_le (State.getElem?_sprite_eq_some.2 ⟨hk, rfl⟩) hr,
      BitVec.getMsbD_xor, hc, Bool.xor_false]
  · rw [get_drawRows_of_forall_ne (startRow_lt _) State.length_sprite_le fun k hk hr =>
      hrow ⟨k, State.length_sprite ▸ hk, hr⟩]

/-- The collision test looks at the pixels the sprite lands on (R153). -/
theorem collides_sprite_iff :
    collides e (startRow (s.reg y)) (startCol (s.reg x)) 0 (s.sprite n) s.fb = true ↔
      ∃ r c, SpriteLands e s x y n r c ∧ s.pixel r c = true := by
  simp only [collides_iff, Nat.zero_add, and_ne_zero_iff_exists_getMsbD, State.getElem?_sprite_eq_some]
  constructor
  · rintro ⟨k, _, r, ⟨hk, rfl⟩, hr, c, hon, hc⟩; exact ⟨r, c, ⟨k, hk, hr, hc⟩, hon⟩
  · rintro ⟨r, c, ⟨k, hk, hr, hc⟩, hon⟩; exact ⟨k, _, r, ⟨hk, rfl⟩, hr, c, hon, hc⟩

theorem flag_drawn : (s.drawn e x y n).reg 15 =
    flagByte (collides e (startRow (s.reg y)) (startCol (s.reg x)) 0 (s.sprite n) s.fb) :=
  State.reg_setReg_same _ _ _

theorem flag_drawn_eq_one_iff :
    (s.drawn e x y n).reg 15 = 1 ↔ ∃ r c, SpriteLands e s x y n r c ∧ s.pixel r c = true := by
  rw [flag_drawn, flagByte_eq_one_iff, collides_sprite_iff]

theorem flag_drawn_eq_zero (h : ¬ ∃ r c, SpriteLands e s x y n r c ∧ s.pixel r c = true) :
    (s.drawn e x y n).reg 15 = 0 := by
  rw [flag_drawn, Bool.eq_false_of_not_eq_true (mt collides_sprite_iff.1 h)]
  rfl

end

/-- Settles O50. -/
theorem drawFlipsCoveredPixels : Obligations.DrawFlipsCoveredPixels := by
  intro x y n s hle
  simp only [← spriteLands_wrap_iff]
  exact ⟨_, exec_drw_of_le hle, fun _ _ => pixel_drawn_of_lands, fun _ _ => pixel_drawn_of_not_lands, flag_drawn_eq_one_iff.2,
    flag_drawn_eq_zero, rfl, fun _ hz => State.reg_setReg_of_ne _ _ hz, rfl, s.sameOutsideRegs_setReg_advance vF _⟩

/-- Settles O52. -/
theorem clippedDrawDropsPixels : Obligations.ClippedDrawDropsPixels := by
  intro p b x y n s hclip hle
  have hexec : execWith p b (.drw x y n) s = draw .clip x y n s := congrArg (draw · x y n s) hclip
  simp only [← spriteLands_clip_iff]
  exact ⟨_, hexec.trans (draw_of_le hle), fun _ _ => pixel_drawn_of_lands, fun _ _ => pixel_drawn_of_not_lands,
    flag_drawn_eq_one_iff⟩

/-- What a sprite lands on depends on I, memory and the two coordinates only. -/
theorem spriteLands_congr {e : Config.DrawEdge} {s s' : State} {x y : Reg} {n : BitVec 4} {r : Fin 32} {c : Fin 64}
    (hi : s'.i = s.i) (hmem : ∀ a, s'.mem.readByte a = s.mem.readByte a) (hx : s'.reg x = s.reg x)
    (hy : s'.reg y = s.reg y) : SpriteLands e s' x y n r c ↔ SpriteLands e s x y n r c := by
  simp only [SpriteLands, hi, hmem, hx, hy]

/-- Settles O51: the second draw lands where the first did, so it flips each of those pixels back, and it finds one on where the
first found it off. -/
theorem drawTwiceRestores : Obligations.DrawTwiceRestores := by
  intro x y n s t s' hle ht hfb hi hmem hx hy
  obtain rfl : s.drawn .wrap x y n = t := Host.Outcome.next.inj ((exec_drw_of_le hle).symm.trans ht)
  have hlands r c : SpriteLands .wrap s' x y n r c ↔ SpriteLands .wrap s x y n r c := spriteLands_congr hi hmem hx hy
  have hpixel r c : s'.pixel r c = (s.drawn .wrap x y n).pixel r c := by rw [State.pixel, hfb]; rfl
  refine ⟨_, exec_drw_of_le (hi ▸ hle), fun r c => ?_, ?_⟩
  · by_cases h : SpriteLands .wrap s x y n r c
    · rw [pixel_drawn_of_lands ((hlands r c).2 h), hpixel, pixel_drawn_of_lands h, Bool.not_not]
    · rw [pixel_drawn_of_not_lands (mt (hlands r c).1 h), hpixel, pixel_drawn_of_not_lands h]
  · simp only [flag_drawn_eq_one_iff, hlands, hpixel, ← spriteLands_wrap_iff]
    refine exists_congr fun r => exists_congr fun c => and_congr_right fun h => ?_
    rw [pixel_drawn_of_lands h, Bool.not_eq_true']

end Machine
end Sys2Proof
end

section
/-! SUPPORT. Proofs of the statements about the timers and the key opcodes (45_timers_keys.md): the three timer moves, the
countdown over any number of Ticks, and the fault of the three key opcodes. -/

namespace Sys2Proof
namespace Machine

open Sys2Proof.Safety

/-! ### The timer moves -/

/-- Settles O53: FX07 writes one register and PC; FX15 and FX18, once their timer is put back, write PC only. -/
theorem timerMoves : Obligations.TimerMoves :=
  fun x s => ⟨encodes_of_mask (mask_formatF 15 x 0x07), encodes_of_mask (mask_formatF 15 x 0x15),
    encodes_of_mask (mask_formatF 15 x 0x18), next_setReg rfl (· = s.dt) rfl,
    ⟨_, rfl, rfl, fun _ => rfl, rfl, s.sameOutsideRegs_setPc (s.pc + 2)⟩,
    ⟨_, rfl, rfl, fun _ => rfl, rfl, s.sameOutsideRegs_setPc (s.pc + 2)⟩⟩

/-! ### Ticks -/

/-- A Tick of a running machine counts each timer down by itself (R163). -/
theorem tickOp_of_running {s : State} (h : s.mode = .running) :
    tickOp s = (s.setDt (tickDown s.dt)).setSt (tickDown s.st) := by
  rw [tickOp, h]

/-- Each Tick leaves the machine running, so `k` of them count both timers down `k` times and write nothing else. -/
theorem iterate_tickOp_of_running {s : State} (h : s.mode = .running) (k : Nat) :
    tickOp^[k] s = (s.setDt (tickDown^[k] s.dt)).setSt (tickDown^[k] s.st) := by
  induction k with
  | zero => rfl
  | succ k ih =>
    have hrun : ((s.setDt (tickDown^[k] s.dt)).setSt (tickDown^[k] s.st)).mode = .running := h
    simp only [Function.iterate_succ_apply']
    rw [ih, tickOp_of_running hrun]
    rfl

/-- A timer counted down `k` times, as a number: the subtraction of naturals has the floor at 0 (R163). -/
theorem toNat_iterate_tickDown (b : Byte) (k : Nat) : (tickDown^[k] b).toNat = b.toNat - k := by
  induction k with
  | zero => rfl
  | succ k ih => rw [Function.iterate_succ_apply', toNat_tickDown, ih, Nat.sub_sub]

/-- Settles O54. -/
theorem ticksFloorAtZero : Obligations.TicksFloorAtZero := by
  intro k s h
  rw [iterate_tickOp_of_running h]
  exact ⟨toNat_iterate_tickDown s.dt k, toNat_iterate_tickDown s.st k, rfl⟩

/-! ### The key opcodes -/

/-- A word of format F as a number: its fields at the places of R81 and R82. -/
theorem toNat_formatF (op : BitVec 4) (x : Reg) (ff : Byte) :
    (formatF op x ff).toNat = 0x1000 * op.toNat + ff.toNat + 256 * x.val := by
  have hhigh : (op ++ (BitVec.ofFin x : BitVec 4)).toNat = 16 * op.toNat + x.val := by
    rw [BitVec.toNat_append, ← Nat.shiftLeft_add_eq_or_of_lt x.isLt, Nat.shiftLeft_eq, Nat.mul_comm]
    rfl
  have hword : (formatF op x ff).toNat = 256 * (op ++ (BitVec.ofFin x : BitVec 4)).toNat + ff.toNat :=
    toNat_wordOfBytes _ ff
  omega

/-- The number itself gives the word back. -/
theorem formatF_eq_ofNat (op : BitVec 4) (x : Reg) (ff : Byte) :
    formatF op x ff = BitVec.ofNat 16 (0x1000 * op.toNat + ff.toNat + 256 * x.val) := by
  rw [← toNat_formatF, BitVec.ofNat_toNat, BitVec.setWidth_eq]

/-- What the key opcodes share: DecodeError with a word of format F as info halts with that word's number on record (D8). -/
theorem raise_formatF (op : BitVec 4) (x : Reg) (ff : Byte) (s : State) :
    raise .decode (formatF op x ff) s =
      .next (s.halt .decode s.pc (BitVec.ofNat 16 (0x1000 * op.toNat + ff.toNat + 256 * x.val))) := by
  rw [raise_eq, formatF_eq_ofNat]

/-- Settles O55. -/
theorem keyOpcodesHalt : Obligations.KeyOpcodesHalt :=
  fun x s => ⟨raise_formatF 0xE x 0x9E s, raise_formatF 0xE x 0xA1 s, raise_formatF 0xF x 0x0A s⟩

end Machine
end Sys2Proof
end

section
/-! SUPPORT. Proofs of the statements about the host operations (46_host_operations.md): the freeze in Halted, Load, the terminal
loop, and the invariant over every session. -/

namespace Sys2Proof
namespace Machine

open Sys2Proof.Safety

/-! ### Halted (R178) -/

section
variable {s : State}

theorem loadOp_of_halted (h : s.mode = .halted) (bytes : List Byte) : loadOp bytes s = s := by rw [loadOp, h]

theorem setKeysOp_of_halted (h : s.mode = .halted) (mask : BitVec 16) : setKeysOp mask s = s := by rw [setKeysOp, h]

theorem tickOp_of_halted (h : s.mode = .halted) : tickOp s = s := by rw [tickOp, h]

theorem publishOp_of_halted (h : s.mode = .halted) : publishOp s = s := by rw [publishOp, h]

end

/-- Settles O58. -/
theorem haltedFreezesHostOperations : Obligations.HaltedFreezesHostOperations := by
  intro p op s h hop
  cases op with
  | reset => exact absurd rfl hop
  | load bytes => exact congrArg _ (loadOp_of_halted h bytes)
  | setKeys mask => exact congrArg _ (setKeysOp_of_halted h mask)
  | step r => exact stepBy_of_halted h
  | tick => exact congrArg _ (tickOp_of_halted h)
  | publish => exact congrArg _ (publishOp_of_halted h)
  | dump => rfl

/-! ### Load (R172, R191) -/

/-- Everything a Load can do to a running machine: 3584 bytes are what memory holds from 0x200 up. -/
theorem loadOp_cases {s : State} (h : s.mode = .running) (bytes : List Byte) :
    (bytes.length ≤ 3584 ∧ loadOp bytes s = s.setMem (s.mem.writeBytes 0x200 bytes)) ∨
      (3584 < bytes.length ∧ loadOp bytes s = s.halt .bounds 0x200 0x200) := by
  rw [loadOp, h]
  cases hw : s.mem.writeRange Config.programBase bytes with
  | none =>
    have hlong : 4096 < 0x200 + bytes.length := Memory.writeRange_none.1 hw
    exact .inr ⟨by omega, rfl⟩
  | some m =>
    obtain ⟨hle, rfl, -⟩ := Memory.writeRange_some hw
    have hshort : 0x200 + bytes.length ≤ 4096 := hle
    exact .inl ⟨by omega, rfl⟩

/-- Settles O57: a Load that fits writes memory only, so the state with its old memory put back is the old state. -/
theorem loadPlacesImage : Obligations.LoadPlacesImage := by
  intro bytes s h
  obtain ⟨hle, e⟩ | ⟨hlt, e⟩ := loadOp_cases h bytes <;> rw [e]
  · exact ⟨fun _ => ⟨fun _ _ => Memory.readByte_writeBytes_add, fun _ => Memory.readByte_writeBytes_outside, rfl⟩,
      fun hlt => absurd hle (Nat.not_le.2 hlt)⟩
  · exact ⟨fun hle => absurd hle (Nat.not_le.2 hlt), fun _ => rfl⟩

/-! ### The terminal loop (R180) -/

/-- Settles O59: the fetched word is the jump to PC, which writes to PC what PC holds. -/
theorem terminalLoopIsFinal : Obligations.TerminalLoopIsFinal := by
  rintro s ⟨hmode, a, -, hpc, hfetch⟩
  have hdecode : decode (0x1000 ||| immAddr a) = .ok (.jp a) := by rw [← encode_jp, decodeEncodeRoundTrip]
  have hjump : exec (.jp a) s = .next (s.setPc (immAddr a)) := rfl
  rw [step, stepBy_of_fetch_decode hmode hfetch hdecode, hjump, ← hpc, State.setPc_pc]

/-! ### The invariant over a session -/

/-- The invariant says nothing of the registers, the timers, DIRTY, K and the count of draws. -/
theorem inv_of_unconstrained {s : State} (hs : Inv s) {v : Vector Byte 16} {dt st : Byte} {dirty : Bool} {keys : BitVec 16}
    {draws : Nat} : Inv { s with v := v, dt := dt, st := st, dirty := dirty, keys := keys, draws := draws } :=
  ⟨hs.memory, hs.index, hs.pc, hs.depth, hs.returns, hs.running, hs.halted, hs.faultPc⟩

theorem inv_setMem {s : State} (hs : Inv s) {m : Memory} (hm : m.wf = true) : Inv (s.setMem m) :=
  ⟨hm, hs.index, hs.pc, hs.depth, hs.returns, hs.running, hs.halted, hs.faultPc⟩

/-- A raise recorded at any address PC can hold; `inv_halt` is the one at PC itself. -/
theorem inv_halt_of_le {s : State} (hs : Inv s) {c : Cause} (hc : c ≠ .none) {p : Word} (hp : p.toNat ≤ 0x10FE) (w : Word) :
    Inv (s.halt c p w) :=
  ⟨hs.memory, hs.index, hs.pc, hs.depth, hs.returns, by simp, fun _ => hc, hp⟩

theorem resetOp_keeps_inv (s : State) : Inv (resetOp hardware s) := by
  rw [resetOp_hardware]
  exact inv_of_unconstrained resetMeetsInvariant

theorem loadOp_keeps_inv {s : State} (hs : Inv s) (bytes : List Byte) : Inv (loadOp bytes s) := by
  cases hmode : s.mode with
  | halted => rw [loadOp_of_halted hmode]; exact hs
  | running =>
    have hwf := wf_loadOp (bytes := bytes) hs.memory
    obtain ⟨-, e⟩ | ⟨-, e⟩ := loadOp_cases hmode bytes <;> rw [e] at hwf ⊢
    · exact inv_setMem hs hwf
    · exact inv_halt_of_le hs (by decide) (by decide) 0x200

/-- Only CXNN looks at the draw, and only its register shows it, so the invariant is kept at every draw as it is at the free
one (R30). -/
theorem execWith_keeps_inv {r : Byte} {i : Instr} {s t : State} (hs : Inv s) (hpc : s.pc.toNat ≤ 0xFFE)
    (h : execWith hardware r i s = .next t) : Inv t := by
  by_cases hrnd : ∃ x nn, i = .rnd x nn
  · obtain ⟨x, nn, rfl⟩ := hrnd
    cases h
    have hfree : Inv (s.setReg x (Config.randomByte s.draws &&& nn)).countDraw.advance :=
      exec_keeps_inv (i := .rnd x nn) hs hpc rfl
    exact inv_of_unconstrained hfree
  · have hne : ∀ x nn, i ≠ .rnd x nn := fun x nn e => hrnd ⟨x, nn, e⟩
    rw [execWith_draw hardware r (Config.randomByte s.draws) i s hne, ← exec_eq_execWith] at h
    exact exec_keeps_inv hs hpc h

theorem stepWith_keeps_inv {r : Byte} {s t : State} (hs : Inv s) (h : stepWith hardware r s = .next t) : Inv t :=
  stepBy_keeps_inv hs (fun _ hpc he => execWith_keeps_inv hs hpc he) h

theorem setKeysOp_keeps_inv {s : State} (hs : Inv s) (mask : BitVec 16) : Inv (setKeysOp mask s) := by
  unfold setKeysOp
  split
  · exact hs
  · exact inv_of_unconstrained hs

theorem tickOp_keeps_inv {s : State} (hs : Inv s) : Inv (tickOp s) := by
  unfold tickOp
  split
  · exact hs
  · exact inv_of_unconstrained hs

theorem publishOp_keeps_inv {s : State} (hs : Inv s) : Inv (publishOp s) := by
  unfold publishOp
  split
  · exact hs
  · exact inv_of_unconstrained hs

/-- Every host operation keeps the invariant (R170): Reset establishes it, Step and Load keep it, and what the others write the
invariant says nothing of. -/
theorem hostOp_keeps_inv {op : HostOp} {s t : State} (hs : Inv s) (h : hostOp hardware op s = .next t) : Inv t := by
  cases op with
  | reset => cases h; exact resetOp_keeps_inv s
  | load bytes => cases h; exact loadOp_keeps_inv hs bytes
  | setKeys mask => cases h; exact setKeysOp_keeps_inv hs mask
  | step r => exact stepWith_keeps_inv hs h
  | tick => cases h; exact tickOp_keeps_inv hs
  | publish => cases h; exact publishOp_keeps_inv hs
  | dump => cases h; exact hs

/-- Settles O14, by induction on the list of operations: each keeps the invariant in whatever state the ones before it leave. -/
theorem sessionsKeepInvariant : Obligations.SessionsKeepInvariant := by
  intro ops
  induction ops with
  | nil => intro stepped s t hs h; cases h; exact hs
  | cons op ops ih =>
    intro stepped s t hs h
    obtain ⟨-, u, hop, hrest⟩ := session_cons.1 h
    exact ih _ u t (hostOp_keeps_inv hs hop) hrest

end Machine
end Sys2Proof
end

section
/-! SUPPORT. Proofs of the statements about the fatal conditions (60_exceptions.md): the accesses through I that pass the end of
memory, and the step as the fatal conditions decide it. -/

namespace Sys2Proof
namespace Machine

open Sys2Proof.Safety

/-! ### Accesses through I past 0xFFF (R55, R191) -/

section
variable {s : State} {x y : Reg} {n : BitVec 4}

theorem storeAtI_of_lt {bs : List Byte} (h : 4096 < s.i.toNat + bs.length) :
    storeAtI bs s = .next (s.halt .bounds s.pc s.i) := by
  obtain ⟨hle, -⟩ | ⟨-, e⟩ := storeAtI_cases bs s
  · omega
  · exact e

theorem exec_ldB_of_lt (h : 4096 < s.i.toNat + 3) : exec (.ldB x) s = .next (s.halt .bounds s.pc s.i) :=
  storeAtI_of_lt (bs := decimalDigits (s.reg x)) h

theorem exec_spill_of_lt (h : 4096 < s.i.toNat + x.val + 1) : exec (.spill x) s = .next (s.halt .bounds s.pc s.i) :=
  storeAtI_of_lt (bs := s.regRun x) (by rwa [State.length_regRun])

theorem exec_fill_of_lt (h : 4096 < s.i.toNat + x.val + 1) : exec (.fill x) s = .next (s.halt .bounds s.pc s.i) := by
  change execFill x s = _
  rw [execFill, (Memory.readRange_none (len := x.val + 1)).2 h, raise_eq]

theorem exec_drw_of_lt (h : 4096 < s.i.toNat + n.toNat) : exec (.drw x y n) s = .next (s.halt .bounds s.pc s.i) := by
  change draw .wrap x y n s = _
  rw [draw, Memory.readRange_none.2 h, raise_eq]

end

/-- Settles O48. -/
theorem indexedAccessBeyondMemoryHalts : Obligations.IndexedAccessBeyondMemoryHalts :=
  fun _ => ⟨fun _ _ _ => exec_drw_of_lt, fun _ => exec_ldB_of_lt, fun _ h => ⟨exec_spill_of_lt h, exec_fill_of_lt h⟩⟩

/-! ### The instruction's own fatal condition (R191 to R193) -/

/-- An instruction whose fatal condition holds does nothing but record it (R196, R197). -/
theorem exec_of_executeFault_eq_some {i : Instr} {s : State} {c : Cause} {w : Word} (h : executeFault i s = some (c, w)) :
    exec i s = .next (s.halt c s.pc w) := by
  cases i with
  | ret => obtain ⟨hnil, ⟨⟩⟩ := Option.ite_none_right_eq_some.1 h; exact exec_ret_of_nil hnil
  | call nnn => obtain ⟨hfull, ⟨⟩⟩ := Option.ite_none_right_eq_some.1 h; exact exec_call_of_le nnn hfull
  | drw x y n => obtain ⟨hlt, ⟨⟩⟩ := Option.ite_none_right_eq_some.1 h; exact exec_drw_of_lt hlt
  | ldB x => obtain ⟨hlt, ⟨⟩⟩ := Option.ite_none_right_eq_some.1 h; exact exec_ldB_of_lt hlt
  | spill x => obtain ⟨hlt, ⟨⟩⟩ := Option.ite_none_right_eq_some.1 h; exact exec_spill_of_lt hlt
  | fill x => obtain ⟨hlt, ⟨⟩⟩ := Option.ite_none_right_eq_some.1 h; exact exec_fill_of_lt hlt
  | skp | sknp | ldVxK => cases h; rfl
  | _ => cases h

/-- An instruction whose fatal condition does not hold completes, and no completion writes MODE or FAULT. -/
theorem exec_of_executeFault_eq_none {i : Instr} {s : State} (h : executeFault i s = none) :
    ∃ t, exec i s = .next t ∧ t.mode = s.mode ∧ t.fault = s.fault := by
  cases i with
  | ret =>
    have hne : s.stack ≠ [] := by simpa [executeFault] using h
    obtain ⟨a, rest, hstack⟩ := List.exists_cons_of_ne_nil hne
    exact ⟨_, exec_ret_of_cons hstack, rfl, rfl⟩
  | call nnn =>
    have hlt : s.stack.length < 16 := by simpa [executeFault] using h
    exact ⟨_, exec_call_of_lt nnn hlt, rfl, rfl⟩
  | drw x y n =>
    have hle : s.i.toNat + n.toNat ≤ 4096 := by simpa [executeFault] using h
    exact ⟨_, exec_drw_of_le hle, rfl, rfl⟩
  | ldB x =>
    have hle : s.i.toNat + 3 ≤ 4096 := by simpa [executeFault] using h
    exact ⟨_, storeAtI_of_le (bs := decimalDigits (s.reg x)) hle, rfl, rfl⟩
  | spill x =>
    have hle : s.i.toNat + x.val + 1 ≤ 4096 := by simpa [executeFault] using h
    exact ⟨_, exec_spill_of_le hle, rfl, rfl⟩
  | fill x =>
    have hle : s.i.toNat + x.val + 1 ≤ 4096 := by simpa [executeFault] using h
    exact ⟨_, exec_fill_of_le hle, rfl, rfl⟩
  | skp | sknp | ldVxK => cases h
  | seImm | sneImm | seReg | sneReg => exact ⟨_, rfl, State.mode_skipIf .., State.fault_skipIf ..⟩
  | _ => exact ⟨_, rfl, rfl, rfl⟩

/-! ### The step's fatal condition, by priority (R195) -/

section
variable {s : State} {w : Word}

theorem fatalCondition_of_fetch_none (h : s.fetchWord = none) : fatalCondition s = some (.bounds, s.pc) := by
  simp [fatalCondition, h]

theorem fatalCondition_of_decode_error {r : Reject} (hfetch : s.fetchWord = some w) (hdecode : decode w = .error r) :
    fatalCondition s = some (.decode, w) := by
  simp [fatalCondition, hfetch, hdecode]

theorem fatalCondition_of_decode_ok {i : Instr} (hfetch : s.fetchWord = some w) (hdecode : decode w = .ok i) :
    fatalCondition s = executeFault i s := by
  simp [fatalCondition, hfetch, hdecode]

end

/-- Settles O10, along the cases of a step: each stage that fails raises the condition named for it, and a decoded instruction
is decided by its own. -/
theorem fatalConditionsDecideTheStep : Obligations.FatalConditionsDecideTheStep := by
  intro s hmode
  obtain ⟨hhalted, -⟩ | ⟨-, hfetch, e⟩ | ⟨w, r, -, hfetch, hdecode, e⟩ | ⟨w, i, -, hfetch, hdecode, e⟩ := stepBy_cases exec s
  · simp [hmode] at hhalted
  · rw [fatalCondition_of_fetch_none hfetch]
    exact ⟨by rintro _ _ ⟨⟩; exact e, nofun⟩
  · rw [fatalCondition_of_decode_error hfetch hdecode]
    exact ⟨by rintro _ _ ⟨⟩; exact e, nofun⟩
  · rw [fatalCondition_of_decode_ok hfetch hdecode, step, e, ← hmode]
    exact ⟨fun _ _ => exec_of_executeFault_eq_some, exec_of_executeFault_eq_none⟩

end Machine
end Sys2Proof
end
